-- ==== Sys2Proof/Word.lean ====
section
/-! DEFINITION. The machine's one word: an unsigned byte (00_scope.md R8, R11). -/

namespace Sys2Proof

/-- Every register, memory cell, operand, `pc`, `sp` and `fl` value: an unsigned 8-bit value, 0..255 (R8, R11, R24). -/
abbrev Byte := BitVec 8

/-- An address: `pc`, `sp` and every memory address are 8 bits wide (R8 `ADDR_BITS`), so adding and
subtracting on it wraps mod 256 (R9 `ADDR_OVERFLOW = Wrap`; notes/assumptions/1.md to 4.md). -/
abbrev Addr := Byte

/-- The index of a general register, 0..7 (R21). -/
abbrev RegIndex := Fin 8

end Sys2Proof
end

