-- ==== Sys2Proof/Syntax.lean ====
section
/-! DEFINITION. The instructions: one constructor per row of spec/opcode_table.json (00_scope.md R2, 30_encoding.md R78). -/

namespace Sys2Proof

/-- The thirteen instructions. A register operand is kept as the whole operand byte, 0..255 (R72): a byte of 8 or more
is a legal encoding whose execution raises RegisterIndexFault and records that byte (R75, R172), so it may not be
narrowed to an index here (notes/assumptions/17.md). The bytes a format marks "fetched, ignored" (R71, R74) are no part
of the instruction. -/
inductive Instr where
  /-- HALT, 0x01, format F0 (R110). -/
  | halt
  /-- LOAD-IMMEDIATE rA,imm, 0x82, format F2RI (R130). -/
  | loadImmediate (a imm : Byte)
  /-- PRINT-REGISTER rA, 0x47, format F1R (R131). -/
  | printRegister (a : Byte)
  /-- MULTIPLY rA,rB, 0xA2, format F2RR (R122). -/
  | multiply (a b : Byte)
  /-- PUSH rA, 0x45, format F1R (R140). -/
  | push (a : Byte)
  /-- POP rA, 0x46, format F1R (R141). -/
  | pop (a : Byte)
  /-- CALL rA, 0x50, format F1R (R150). -/
  | call (a : Byte)
  /-- RETURN, 0x11, format F0 (R151). -/
  | ret
  /-- ADD rA,rB, 0xA0, format F2RR (R121). -/
  | add (a b : Byte)
  /-- COMPARE rA,rB, 0xA7, format F2RR (R160). -/
  | compare (a b : Byte)
  /-- JUMP rA, 0x54, format F1R (R152). -/
  | jump (a : Byte)
  /-- JUMP-IF-EQUAL rA, 0x55, format F1R (R161). -/
  | jumpIfEqual (a : Byte)
  /-- JUMP-IF-NOT-EQUAL rA, 0x56, format F1R (R162). -/
  | jumpIfNotEqual (a : Byte)
  deriving DecidableEq, Repr

end Sys2Proof
end

