-- ==== Sys2Proof/WellFormed.lean ====
section
/-! DEFINITION. Which instructions name only registers that exist (30_encoding.md R71, R72, R75). -/

namespace Sys2Proof

/-- The register-index operands of an instruction's format (R71), in the order they are checked: `a`, then `b` (R75).
The immediate of LOAD-IMMEDIATE is no register index (R73). -/
def Instr.registerOperands : Instr → List Byte
  | .halt => []
  | .loadImmediate a _ => [a]
  | .printRegister a => [a]
  | .multiply a b => [a, b]
  | .push a => [a]
  | .pop a => [a]
  | .call a => [a]
  | .ret => []
  | .add a b => [a, b]
  | .compare a b => [a, b]
  | .jump a => [a]
  | .jumpIfEqual a => [a]
  | .jumpIfNotEqual a => [a]

/-- Does the byte name a general register, 0..7 (R21, R72)? -/
def namesRegister (v : Byte) : Bool := decide (v.toNat < 8)

/-- A well-formed instruction: every register operand names a register. An ill-formed one still decodes; executing it
raises RegisterIndexFault (R75). -/
def Instr.wellFormed (i : Instr) : Bool := i.registerOperands.all namesRegister

end Sys2Proof
end

