-- ==== Sys2Proof/Decode.lean ====
section
/-! DEFINITION. Decoding the three fetched bytes, and the encoder (30_encoding.md R70 to R80). -/

namespace Sys2Proof

/-- The three bytes a step fetches: `op` at `pc`, `a` at `pc+1`, `b` at `pc+2` (R101). Transient latches, no state (R40). -/
structure Fetched where
  op : Byte
  a : Byte
  b : Byte
  deriving DecidableEq, Repr

/-- What the decoder answers. -/
inductive Decoded where
  /-- The bytes are this instruction. -/
  | instruction (i : Instr)
  /-- Rejected: the opcode byte is none of the thirteen (R79). The step reports and skips it (R111). -/
  | unrecognizedOpcode (op : Byte)
  deriving DecidableEq, Repr

/-- Opcode of HALT (R78). -/
def opHalt : Byte := 0x01
/-- Opcode of LOAD-IMMEDIATE (R78). -/
def opLoadImmediate : Byte := 0x82
/-- Opcode of PRINT-REGISTER (R78). -/
def opPrintRegister : Byte := 0x47
/-- Opcode of MULTIPLY (R78). -/
def opMultiply : Byte := 0xA2
/-- Opcode of PUSH (R78). -/
def opPush : Byte := 0x45
/-- Opcode of POP (R78). -/
def opPop : Byte := 0x46
/-- Opcode of CALL (R78). -/
def opCall : Byte := 0x50
/-- Opcode of RETURN (R78). -/
def opRet : Byte := 0x11
/-- Opcode of ADD (R78). -/
def opAdd : Byte := 0xA0
/-- Opcode of COMPARE (R78). -/
def opCompare : Byte := 0xA7
/-- Opcode of JUMP (R78). -/
def opJump : Byte := 0x54
/-- Opcode of JUMP-IF-EQUAL (R78). -/
def opJumpIfEqual : Byte := 0x55
/-- Opcode of JUMP-IF-NOT-EQUAL (R78). -/
def opJumpIfNotEqual : Byte := 0x56

/-- Decoding compares the whole opcode byte with the thirteen values; every other byte is unrecognized (R76, R102).
No subfield of the byte takes part (R77), and the operand bytes are used unchanged (R72, R73). -/
def decode (f : Fetched) : Decoded :=
  if f.op = opHalt then .instruction .halt
  else if f.op = opLoadImmediate then .instruction (.loadImmediate f.a f.b)
  else if f.op = opPrintRegister then .instruction (.printRegister f.a)
  else if f.op = opMultiply then .instruction (.multiply f.a f.b)
  else if f.op = opPush then .instruction (.push f.a)
  else if f.op = opPop then .instruction (.pop f.a)
  else if f.op = opCall then .instruction (.call f.a)
  else if f.op = opRet then .instruction .ret
  else if f.op = opAdd then .instruction (.add f.a f.b)
  else if f.op = opCompare then .instruction (.compare f.a f.b)
  else if f.op = opJump then .instruction (.jump f.a)
  else if f.op = opJumpIfEqual then .instruction (.jumpIfEqual f.a)
  else if f.op = opJumpIfNotEqual then .instruction (.jumpIfNotEqual f.a)
  else .unrecognizedOpcode f.op

/-- The opcode byte of an instruction (R78). -/
def Instr.opcode : Instr → Byte
  | .halt => opHalt
  | .loadImmediate _ _ => opLoadImmediate
  | .printRegister _ => opPrintRegister
  | .multiply _ _ => opMultiply
  | .push _ => opPush
  | .pop _ => opPop
  | .call _ => opCall
  | .ret => opRet
  | .add _ _ => opAdd
  | .compare _ _ => opCompare
  | .jump _ => opJump
  | .jumpIfEqual _ => opJumpIfEqual
  | .jumpIfNotEqual _ => opJumpIfNotEqual

/-- The operand bytes an instruction occupies after its opcode: none (F0), `a` (F1R), or `a` and the second byte (F2RR, F2RI) (R71). -/
def Instr.operandBytes : Instr → List Byte
  | .halt => []
  | .loadImmediate a imm => [a, imm]
  | .printRegister a => [a]
  | .multiply a b => [a, b]
  | .push a => [a]
  | .pop a => [a]
  | .call a => [a]
  | .ret => []
  | .add a b => [a, b]
  | .compare a b => [a, b]
  | .jump a => [a]
  | .jumpIfEqual a => [a]
  | .jumpIfNotEqual a => [a]

/-- The bytes of an instruction, at ascending addresses (R55, R71). -/
def encode (i : Instr) : List Byte := i.opcode :: i.operandBytes

/-- The length of an instruction, 1, 2 or 3 bytes (R70, R78). -/
def Instr.length (i : Instr) : Nat := 1 + i.operandBytes.length

/-- The first three bytes of a stretch of memory, as the fetch latches them; a byte the list does not have is taken as 0. -/
def Fetched.ofBytes (bytes : List Byte) : Fetched where
  op := bytes.getD 0 0
  a := bytes.getD 1 0
  b := bytes.getD 2 0

/-- The three bytes of a table word: bits 7..0 are the first byte, 15..8 the second, 23..16 the third. -/
def Fetched.ofWord (w : Nat) : Fetched where
  op := BitVec.ofNat 8 w
  a := BitVec.ofNat 8 (w / 2 ^ 8)
  b := BitVec.ofNat 8 (w / 2 ^ 16)

/-- The instruction the decoder reads from a table word of `nbits` bits (every bit above them is 0). -/
def decodeTableWord (nbits w : Nat) : Option Instr :=
  match decode (Fetched.ofWord (w % 2 ^ nbits)) with
  | .instruction i => some i
  | .unrecognizedOpcode _ => none

end Sys2Proof
end

