-- ==== Sys2Proof/Config.lean ====
section
/-! DEFINITION. What an implementation fixes (00_scope.md R8, R9) and the one value the spec leaves open. -/

namespace Sys2Proof

/-- `REG_RESET` (R8, R25): every general register is 0 after reset. -/
abbrev Config.regReset : Byte := 0

/-- `MEM_RESET` (R8, R51): every memory cell is 0 after reset, so this is what an unlisted cell reads as. -/
abbrev Config.memReset : Byte := 0

/-- `PC_RESET` (R8, R26). -/
abbrev Config.pcReset : Addr := 0

/-- `SP_RESET` (R8, R30). -/
abbrev Config.spReset : Addr := 0xF4

/-- `FL_RESET` (R9, R34). DESIGN CHOICE of the spec, 92_eei_decisions.md D8: the source gives none (notes/assumptions/7.md). -/
abbrev Config.flReset : Byte := 0x00

/-- `UNRECOGNIZED_ADVANCE` (R8, R111): how far an unrecognized opcode moves `pc`. -/
abbrev Config.unrecognizedAdvance : Addr := 1

/-- `FAULT_EXIT_STATUS` (R206, D23): the process exit status of a faulted run is left OPEN as a parameter of the host.
A free value: it has no body, so no proof can lean on a number (notes/assumptions/22.md). -/
opaque Config.faultExitStatus : Nat

end Sys2Proof
end

