-- ==== Sys2Proof/Machine/State.lean ====
section
/-! DEFINITION. The architectural state, exactly the table of 10_state.md R20, and reset (70_reset_and_hazards.md R190). -/

namespace Sys2Proof.Machine

/-- The 256 cells of memory (R50), as the list of the cells that differ from their reset value: (address, byte) pairs,
addresses strictly rising and below 256, no byte equal to what an unlisted cell reads as (`Memory.wf`;
notes/assumptions/18.md). -/
abbrev Memory := List Host.Cell

/-- The run state `run` (R38). -/
inductive RunState where
  /-- Each step executes one instruction. -/
  | running
  /-- Entered by HALT only; terminal (R110). -/
  | halted
  /-- Entered by a RegisterIndexFault only; terminal (R173). -/
  | faulted
  deriving DecidableEq, Repr

/-- The kind of a fault record (R39): RegisterIndexFault is the only one (R172). -/
inductive FaultKind where
  /-- A register-index operand byte of 8..255 (R172); condition code 2 (R170). -/
  | registerIndex
  deriving DecidableEq, Repr

/-- The fault record (R39): `pc` and `opcode` identify the faulting instruction, `index` is the offending operand byte. -/
structure FaultRecord where
  kind : FaultKind
  pc : Addr
  opcode : Byte
  index : Byte
  deriving DecidableEq, Repr

/-- One entry of the diagnostic stream: the pair (pc, opcode) of an unrecognized opcode (R37). -/
structure DiagEvent where
  pc : Addr
  opcode : Byte
  deriving DecidableEq, Repr

/-- Everything that persists from one step to the next (R20). -/
structure State where
  /-- The general registers `x[0..7]` (R21 to R25). -/
  x : Vector Byte 8
  /-- The program counter (R26 to R29). -/
  pc : Addr
  /-- The stack pointer, a register of its own (R22, R30). -/
  sp : Addr
  /-- The flags byte: L is bit 2, G bit 1, E bit 0 (R31 to R34). -/
  fl : Byte
  /-- The memory `mem[0..255]` (R50, R51). -/
  mem : Memory
  /-- The run state (R38). -/
  run : RunState
  /-- The fault record; `none` until a fault is raised (R39). -/
  fault : Option FaultRecord
  /-- The print-output stream, oldest byte first (R36). -/
  out : List Byte
  /-- The diagnostic stream, oldest report first (R37). -/
  diag : List DiagEvent
  deriving DecidableEq, Repr

/-- Why the machine could stop without a next state. RegisterIndexFault is none of these: its effect is a next state (R173). -/
inductive Fault where
  /-- The condition the source names and no opcode reaches (R112, R174; 93_implementation_defined.md I8 "`fault` if ever
  reached"). Nothing raises it. Safe: the model never stops here (notes/assumptions/20.md). -/
  | unsupportedAluOperation
  deriving DecidableEq, Repr

/-- Why the model could have no meaning for an instruction. -/
inductive Refusal where
  /-- Raised by an arm of `exec` that rejects its instruction by name. No arm does: every instruction has its meaning. Safe. -/
  | notModelled (mnemonic : String)
  deriving DecidableEq, Repr

/-- The machine right after reset (R190), before the load phase writes an image (R192). -/
def State.reset : State where
  x := Vector.replicate 8 Config.regReset
  pc := Config.pcReset
  sp := Config.spReset
  fl := Config.flReset
  mem := []
  run := .running
  fault := none
  out := []
  diag := []

end Sys2Proof.Machine
end

