-- ==== Sys2Proof/Machine/Ops.lean ====
section
/-! DEFINITION. The named operations over memory, registers and streams that the meanings share, the fetch, and raising a fault. -/

namespace Sys2Proof.Machine

/-! ### Memory (20_memory.md) -/

/-- `MemRead(addr, 1)` (R13): the cell's value; a cell that is not listed holds its reset value (R51, R62). -/
def Memory.read : Memory → Addr → Byte
  | [], _ => Config.memReset
  | (k, w) :: m, a => if k = a.toNat then w else Memory.read m a

/-- The memory with one cell back at its reset value. -/
def Memory.erase (m : Memory) (a : Addr) : Memory := m.filter fun c => decide (c.1 ≠ a.toNat)

/-- The memory with one cell listed, at its place in address order. -/
def Memory.insert : Memory → Addr → Byte → Memory
  | [], a, v => [(a.toNat, v)]
  | (k, w) :: m, a, v =>
    if a.toNat < k then (a.toNat, v) :: (k, w) :: m
    else if a.toNat = k then (a.toNat, v) :: m
    else (k, w) :: Memory.insert m a v

/-- `MemWrite(addr, 1, v)` (R13, R58). The canonical form is kept: writing the reset value removes the entry. -/
def Memory.write (m : Memory) (a : Addr) (v : Byte) : Memory :=
  if v = Config.memReset then m.erase a else m.insert a v

/-- The canonical form from address `lo` on: addresses strictly rising and below 256, no byte at its reset value. -/
def Memory.wfFrom : Nat → Memory → Bool
  | _, [] => true
  | lo, (k, w) :: m =>
    decide (lo ≤ k) && decide (k < 256) && decide (w ≠ Config.memReset) && Memory.wfFrom (k + 1) m

/-- The canonical form of a memory. -/
def Memory.wf (m : Memory) : Bool := Memory.wfFrom 0 m

/-! ### Registers, program counter and streams (10_state.md) -/

/-- Reads `x[r]`. No register is hardwired, aliased or special (R22). -/
def State.readReg (s : State) (r : RegIndex) : Byte := s.x.get r

/-- `x[r] <- v` (R12). -/
def State.writeReg (s : State) (r : RegIndex) (v : Byte) : State := { s with x := s.x.set r v }

/-- `pc <- target` (R12). -/
def State.setPc (s : State) (target : Addr) : State := { s with pc := target }

/-- `pc <- (pc + n) mod 256` (R27, R28; the wrap is notes/assumptions/2.md). -/
def State.advance (s : State) (n : Addr) : State := s.setPc (s.pc + n)

/-- `sp <- v` (R30). -/
def State.setSp (s : State) (v : Addr) : State := { s with sp := v }

/-- `fl <- v`: the whole byte is written (R32). -/
def State.setFl (s : State) (v : Byte) : State := { s with fl := v }

/-- Reads one memory cell. A read changes nothing (R58). -/
def State.readMem (s : State) (a : Addr) : Byte := s.mem.read a

/-- Writes one memory cell and nothing else (R58). -/
def State.writeMem (s : State) (a : Addr) (v : Byte) : State := { s with mem := s.mem.write a v }

/-- `Emit(v)`: appends `v` to the print-output stream (R14, R36). -/
def State.emit (s : State) (v : Byte) : State := { s with out := s.out ++ [v] }

/-- `Report(p, o)`: appends the pair to the diagnostic stream (R14, R37). -/
def State.report (s : State) (p : Addr) (o : Byte) : State := { s with diag := s.diag ++ [⟨p, o⟩] }

/-- `run <- Halted` (R110). -/
def State.halt (s : State) : State := { s with run := .halted }

/-! ### The stack (43_stack.md R143: descending, full) -/

/-- The cell a PUSH or CALL writes: `(sp - 1) mod 256` (R52; the wrap is notes/assumptions/3.md). -/
def State.pushAddr (s : State) : Addr := s.sp - 1

/-- The cell a POP or RETURN reads: `sp`, before it is incremented (R52). -/
def State.popAddr (s : State) : Addr := s.sp

/-- A push: `sp` is decremented, then the byte is written at the new `sp` (R143). -/
def State.pushByte (s : State) (v : Byte) : State := (s.setSp s.pushAddr).writeMem s.pushAddr v

/-- The byte a pop reads (R143). -/
def State.topByte (s : State) : Byte := s.readMem s.popAddr

/-- The second half of a pop: `sp <- (sp + 1) mod 256`. The popped cell keeps its value (R141). -/
def State.dropTop (s : State) : State := s.setSp (s.sp + 1)

/-- The return address CALL stores: `(pc + 2) mod 256` (R150; the wrap is notes/assumptions/4.md). -/
def State.returnAddress (s : State) : Byte := s.pc + 2

/-! ### Fetch (40_engine_cycle.md R101) -/

/-- The three bytes every step reads first, whatever the opcode, before any write (R54, R101). The operand addresses
wrap mod 256 (R57; notes/assumptions/1.md). -/
def State.fetch (s : State) : Fetched where
  op := s.readMem s.pc
  a := s.readMem (s.pc + 1)
  b := s.readMem (s.pc + 2)

/-! ### Taking the one exception (60_exceptions.md R172, R173) -/

/-- The condition code a fault record carries (R170, D22). -/
def FaultKind.code : FaultKind → Nat
  | .registerIndex => 2

/-- The condition code of a diagnostic report, UnrecognizedOpcode (R170, D22). -/
def DiagEvent.code (_ : DiagEvent) : Nat := 1

/-- `raise RegisterIndexFault(v)` in the instruction with opcode `op`: `run <- Faulted`, `fault <- (2, pc, op, v)`, and
nothing else changes; `pc` keeps the address of the faulting instruction (R172, R173). No handler is entered, and there is
no return: Faulted is terminal (R178, R179). DESIGN CHOICE of the spec, D7 and D10 (notes/assumptions/5.md). -/
def State.raiseRegisterIndexFault (s : State) (op v : Byte) : State :=
  { s with run := .faulted, fault := some ⟨.registerIndex, s.pc, op, v⟩ }

end Sys2Proof.Machine
end

