-- ==== Sys2Proof/Machine/Operands.lean ====
section
/-! DEFINITION. The operand forms: validating register-index operands (30_encoding.md R72, R75). An immediate needs no
operation: it is the operand byte as it is (R73). -/

namespace Sys2Proof.Machine

/-- `regidx(v)`: `v` as a register index when `v < 8` (R14, R75); no masking (R72). -/
def regidx (v : Byte) : Option RegIndex :=
  if h : v.toNat < 8 then some ⟨v.toNat, h⟩ else none

/-- The instruction with opcode `op` and the one register operand `a` (formats F1R, F2RI): validate `a`, then its effect
(R75). The check precedes every write (R14, R177). -/
def withReg (op a : Byte) (s : State) (effect : RegIndex → State) : Host.Outcome State Fault Refusal :=
  match regidx a with
  | some ia => .next (effect ia)
  | none => .next (s.raiseRegisterIndexFault op a)

/-- The instruction with opcode `op` and the two register operands `a` and `b` (format F2RR): validate `a`, then `b`, then
its effect (R75, R177; the order is notes/assumptions/6.md). -/
def withRegs (op a b : Byte) (s : State) (effect : RegIndex → RegIndex → State) : Host.Outcome State Fault Refusal :=
  match regidx a with
  | some ia =>
    match regidx b with
    | some ib => .next (effect ia ib)
    | none => .next (s.raiseRegisterIndexFault op b)
  | none => .next (s.raiseRegisterIndexFault op a)

end Sys2Proof.Machine
end

