-- ==== Sys2Proof/Machine/Arithmetic.lean ====
section
/-! DEFINITION. Arithmetic: ADD and MULTIPLY (41_arithmetic.md). -/

namespace Sys2Proof.Machine

/-- The ALU's operations; there is no other (R120). -/
inductive AluOp where
  | add
  | multiply
  deriving DecidableEq, Repr

/-- The ALU: the exact sum or product of two unsigned bytes, reduced mod 256; it keeps no carry and writes no flag (R120, R123). -/
def alu (op : AluOp) (p q : Byte) : Byte :=
  match op with
  | .add => BitVec.ofNat 8 (p.toNat + q.toNat)
  | .multiply => BitVec.ofNat 8 (p.toNat * q.toNat)

/-- The shared effect of ADD and MULTIPLY: both sources are read before `x[ia]` is written (R121, R122). -/
def aluEffect (op : AluOp) (s : State) (ia ib : RegIndex) : State :=
  (s.writeReg ia (alu op (s.readReg ia) (s.readReg ib))).advance 3

/-- ADD (R121). -/
def execAdd (a b : Byte) (s : State) : Host.Outcome State Fault Refusal :=
  withRegs opAdd a b s (aluEffect .add s)

/-- MULTIPLY (R122). -/
def execMultiply (a b : Byte) (s : State) : Host.Outcome State Fault Refusal :=
  withRegs opMultiply a b s (aluEffect .multiply s)

end Sys2Proof.Machine
end

