-- ==== Sys2Proof/Machine/Flags.lean ====
section
/-! DEFINITION. The flags byte `fl`: the values COMPARE writes and the bits it holds (10_state.md R31, 45_compare_branch.md R160). -/

namespace Sys2Proof.Machine

/-- Only E (bit 0) set: the registers compared equal (R31, R160). -/
def flagsEqual : Byte := 0x01

/-- Only G (bit 1) set: `x[a] > x[b]` (R31, R160). -/
def flagsGreater : Byte := 0x02

/-- Only L (bit 2) set: `x[a] < x[b]` (R31, R160). -/
def flagsLess : Byte := 0x04

/-- The byte COMPARE writes for the values `p` and `q`, compared as naturals (R11, R160). -/
def compareFlags (p q : Byte) : Byte :=
  if p = q then flagsEqual else if p.toNat > q.toNat then flagsGreater else flagsLess

/-- `fl[0]`, the E bit: all that a branch reads (R33). -/
def State.equalBit (s : State) : Bool := s.fl.getLsbD 0

/-- `fl[1]`, the G bit; no instruction reads it (R33). -/
def State.greaterBit (s : State) : Bool := s.fl.getLsbD 1

/-- `fl[2]`, the L bit; no instruction reads it (R33). -/
def State.lessBit (s : State) : Bool := s.fl.getLsbD 2

end Sys2Proof.Machine
end

