-- ==== Sys2Proof/Machine/CompareBranch.lean ====
section
/-! DEFINITION. Comparison and branch: COMPARE, JUMP-IF-EQUAL and JUMP-IF-NOT-EQUAL (45_compare_branch.md). -/

namespace Sys2Proof.Machine

/-- COMPARE (R160): the old `fl` is discarded, not merged. -/
def execCompare (a b : Byte) (s : State) : Host.Outcome State Fault Refusal :=
  withRegs opCompare a b s fun ia ib => (s.setFl (compareFlags (s.readReg ia) (s.readReg ib))).advance 3

/-- The shared effect of the two branches: to `x[ia]` if taken, else past the two-byte instruction (R161, R162). -/
def branchEffect (taken : Bool) (s : State) (ia : RegIndex) : State :=
  if taken then s.setPc (s.readReg ia) else s.advance 2

/-- JUMP-IF-EQUAL (R161): `a` is validated whether or not the branch is taken. -/
def execJumpIfEqual (a : Byte) (s : State) : Host.Outcome State Fault Refusal :=
  withReg opJumpIfEqual a s (branchEffect s.equalBit s)

/-- JUMP-IF-NOT-EQUAL (R162): `a` is validated whether or not the branch is taken. -/
def execJumpIfNotEqual (a : Byte) (s : State) : Host.Outcome State Fault Refusal :=
  withReg opJumpIfNotEqual a s (branchEffect (!s.equalBit) s)

end Sys2Proof.Machine
end

