-- ==== Sys2Proof/Machine/ControlTransfer.lean ====
section
/-! DEFINITION. Control transfer: CALL, RETURN and JUMP (44_control_transfer.md). -/

namespace Sys2Proof.Machine

/-- CALL (R150): the return address is pushed and the target comes from the register.

DESIGN CHOICE where the spec disagrees with itself (notes/assumptions/27.md): a corner case of R150, and R201, say that a CALL
to itself runs for ever without a fault. By the pseudocode of R150, by R64, R101 and R172 it need not: once `sp` comes down to the
CALL's own bytes the push overwrites them, and the next fetch sees the return address as the operand (a fault if it is 8 or more)
or as the opcode. The model follows the pseudocode, R64, R101 and R172; the log entry says for which addresses R201 then holds. -/
def execCall (a : Byte) (s : State) : Host.Outcome State Fault Refusal :=
  withReg opCall a s fun ia => (s.pushByte s.returnAddress).setPc (s.readReg ia)

/-- RETURN (R151): whatever byte is at `sp` becomes `pc`. -/
def execRet (s : State) : Host.Outcome State Fault Refusal :=
  .next (s.dropTop.setPc s.topByte)

/-- JUMP (R152). -/
def execJump (a : Byte) (s : State) : Host.Outcome State Fault Refusal :=
  withReg opJump a s fun ia => s.setPc (s.readReg ia)

end Sys2Proof.Machine
end

