-- ==== Sys2Proof/Machine/DataMovement.lean ====
section
/-! DEFINITION. Data movement: LOAD-IMMEDIATE and PRINT-REGISTER (42_data_movement.md). -/

namespace Sys2Proof.Machine

/-- LOAD-IMMEDIATE (R130): the immediate is the byte as it is and is never validated. -/
def execLoadImmediate (a imm : Byte) (s : State) : Host.Outcome State Fault Refusal :=
  withReg opLoadImmediate a s fun ia => (s.writeReg ia imm).advance 3

/-- PRINT-REGISTER (R131): one event on the print-output stream. -/
def execPrintRegister (a : Byte) (s : State) : Host.Outcome State Fault Refusal :=
  withReg opPrintRegister a s fun ia => (s.emit (s.readReg ia)).advance 2

end Sys2Proof.Machine
end

