-- ==== Sys2Proof/Machine/Engine.lean ====
section
/-! DEFINITION. The engine's own two effects: HALT and the unrecognized-opcode default (40_engine_cycle.md). -/

namespace Sys2Proof.Machine

/-- HALT (R110): `pc` keeps the address of the HALT byte. DESIGN CHOICE of the spec, D9 (notes/assumptions/8.md). -/
def execHalt (s : State) : Host.Outcome State Fault Refusal := .next s.halt

/-- UNRECOGNIZED (R111, R171): reported as (pc, op) and skipped; the advance is 1 whatever the byte's bits say (R79). -/
def execUnrecognized (op : Byte) (s : State) : Host.Outcome State Fault Refusal :=
  .next ((s.report s.pc op).advance Config.unrecognizedAdvance)

end Sys2Proof.Machine
end

