-- ==== Sys2Proof/Machine/Stack.lean ====
section
/-! DEFINITION. Stack: PUSH and POP (43_stack.md). -/

namespace Sys2Proof.Machine

/-- PUSH (R140). -/
def execPush (a : Byte) (s : State) : Host.Outcome State Fault Refusal :=
  withReg opPush a s fun ia => (s.pushByte (s.readReg ia)).advance 2

/-- POP (R141). -/
def execPop (a : Byte) (s : State) : Host.Outcome State Fault Refusal :=
  withReg opPop a s fun ia => ((s.writeReg ia s.topByte).dropTop).advance 2

end Sys2Proof.Machine
end

