-- ==== Sys2Proof/Machine/Dispatch.lean ====
section
/-! DEFINITION. The dispatch on the decoded instruction (40_engine_cycle.md R102): one arm per instruction. -/

namespace Sys2Proof.Machine

/-- The effect of one instruction, its operands already latched (R102). It does not look at `run`: the step does (R100). -/
def exec (i : Instr) (s : State) : Host.Outcome State Fault Refusal :=
  match i with
  | .halt => Sys2Proof.Machine.execHalt s
  | .loadImmediate a imm => Sys2Proof.Machine.execLoadImmediate a imm s
  | .printRegister a => Sys2Proof.Machine.execPrintRegister a s
  | .multiply a b => Sys2Proof.Machine.execMultiply a b s
  | .push a => Sys2Proof.Machine.execPush a s
  | .pop a => Sys2Proof.Machine.execPop a s
  | .call a => Sys2Proof.Machine.execCall a s
  | .ret => Sys2Proof.Machine.execRet s
  | .add a b => Sys2Proof.Machine.execAdd a b s
  | .compare a b => Sys2Proof.Machine.execCompare a b s
  | .jump a => Sys2Proof.Machine.execJump a s
  | .jumpIfEqual a => Sys2Proof.Machine.execJumpIfEqual a s
  | .jumpIfNotEqual a => Sys2Proof.Machine.execJumpIfNotEqual a s

end Sys2Proof.Machine
end

