-- ==== Sys2Proof/Machine/Step.lean ====
section
/-! DEFINITION. One step of the engine (40_engine_cycle.md R100 to R104), and placing a word where the step fetches. -/

namespace Sys2Proof.Machine

/-- The decode-and-execute part of a step, for the bytes it has fetched (R102). -/
def execFetched (f : Fetched) (s : State) : Host.Outcome State Fault Refusal :=
  match decode f with
  | .instruction i => exec i s
  | .unrecognizedOpcode op => execUnrecognized op s

/-- One step. In Running it fetches three bytes and performs exactly one effect (R101, R102). In Halted and Faulted no step
is enabled: a step request leaves the state as it is (R41, R100; notes/assumptions/9.md). -/
def step (s : State) : Host.Outcome State Fault Refusal :=
  match s.run with
  | .running => execFetched s.fetch s
  | .halted => .next s
  | .faulted => .next s

/-- The state with an instruction's bytes stored where the next step fetches (`pc`, `pc+1`, `pc+2` mod 256), and Running, so
that the next step runs it (notes/assumptions/13.md). -/
def State.withFetchWord (s : State) (nbits w : Nat) : State :=
  let f := Fetched.ofWord (w % 2 ^ nbits)
  { (((s.writeMem s.pc f.op).writeMem (s.pc + 1) f.a).writeMem (s.pc + 2) f.b) with run := .running }

end Sys2Proof.Machine
end

