-- ==== Sys2Proof/Machine/Block.lean ====
section
/-! DEFINITION. The boundary of the block: the host's moves (reset, load port, step), the image, and what the host can
observe (10_state.md R41 to R45, 70_reset_and_hazards.md R190 to R208). -/

namespace Sys2Proof.Machine

/-! ### The host's moves -/

/-- The engine with its load port. R20 gives the engine no such state; whether the port is open belongs to the block
interface (R41, R192; notes/assumptions/12.md). -/
structure Block where
  /-- The engine's architectural state (R20). -/
  engine : State
  /-- Is this the load phase, from reset up to the first step (R192)? -/
  loading : Bool
  deriving DecidableEq, Repr

/-- What the host can request (R41, R204). -/
inductive HostMove where
  /-- The `reset` input. -/
  | reset
  /-- The load port: `load_we` with `load_addr` and `load_data`. -/
  | load (addr : Addr) (data : Byte)
  /-- The `step` input. -/
  | step
  deriving DecidableEq, Repr

/-- The block right after reset: memory all zero and the load port open (R190, R192). -/
def Block.reset : Block := ⟨State.reset, true⟩

/-- One host move; `none` where the model has no such move. Reset is possible from every state (R190, D19). A load is
accepted only in the load phase and writes one cell (R41, R192, D15). A step request closes the load port (R192). -/
def Block.move (b : Block) : HostMove → Option Block
  | .reset => some Block.reset
  | .load addr data => if b.loading then some { b with engine := b.engine.writeMem addr data } else none
  | .step =>
    match Sys2Proof.Machine.step b.engine with
    | .next t => some ⟨t, false⟩
    | .fault _ => none
    | .refused _ => none

/-- A sequence of host moves, in order; `none` if one of them is refused. -/
def Block.moves : Block → List HostMove → Option Block
  | b, [] => some b
  | b, m :: ms =>
    match b.move m with
    | some c => Block.moves c ms
    | none => none

/-! ### The image (R193) -/

/-- The memory with the bytes written to consecutive addresses from `n` on (R51, R193). -/
def Memory.writeFrom : Memory → Nat → List Byte → Memory
  | m, _, [] => m
  | m, n, v :: vs => Memory.writeFrom (m.write (BitVec.ofNat 8 n) v) (n + 1) vs

/-- The engine with an image loaded from address 0; `none` for an image of more than 256 bytes: the run does not start
(R193, D14; notes/assumptions/14.md). -/
def loadImage (image : List Byte) : Option State :=
  if image.length ≤ 256 then some { State.reset with mem := Memory.writeFrom State.reset.mem 0 image } else none

/-- The load-port writes that put an image at consecutive addresses from `n` on (R192, R193). -/
def loadMoves : Nat → List Byte → List HostMove
  | _, [] => []
  | n, v :: vs => .load (BitVec.ofNat 8 n) v :: loadMoves (n + 1) vs

/-! ### Outputs (R42, R43, R45) -/

/-- The `halted` output (R42). -/
def State.halted (s : State) : Bool := decide (s.run = .halted)

/-- The `faulted` output (R42); `fault` is then readable (R39). -/
def State.faulted (s : State) : Bool := decide (s.run = .faulted)

/-- Has the run ended (R205)? -/
def State.ended (s : State) : Bool := s.halted || s.faulted

/-- One event on the block's outputs (R42). -/
inductive Event where
  /-- `out_valid` with `out_data`. -/
  | out (v : Byte)
  /-- `diag_valid` with `diag_pc` and `diag_op`. -/
  | diag (e : DiagEvent)
  deriving DecidableEq, Repr

/-- The events of a step from `s` to `t`: what it appended to the two streams (R36, R37, R43). -/
def stepEvents (s t : State) : List Event :=
  (t.out.drop s.out.length).map .out ++ (t.diag.drop s.diag.length).map .diag

/-- The optional trace port's snapshot, taken before a step (R45); it writes no state. -/
structure TraceSnapshot where
  pc : Addr
  fetched : Fetched
  x : Vector Byte 8
  deriving DecidableEq, Repr

/-- What the trace port presents before a step from `s` (R45, D17; notes/assumptions/24.md). -/
def State.traceSnapshot (s : State) : TraceSnapshot := ⟨s.pc, s.fetch, s.x⟩

/-! ### What the host makes of the outputs -/

/-- The unsigned decimal digits of a byte, most significant first, with no leading zero (R208). -/
def decimalDigits (v : Byte) : List Nat :=
  if v.toNat < 10 then [v.toNat]
  else if v.toNat < 100 then [v.toNat / 10, v.toNat % 10]
  else [v.toNat / 100, v.toNat / 10 % 10, v.toNat % 10]

/-- The line of standard output for one print byte, as character codes: its digits in ASCII and a newline, 0x0A
(R208; the newline is notes/assumptions/11.md). -/
def printLine (v : Byte) : List Nat := (decimalDigits v).map (· + 0x30) ++ [0x0A]

/-- Standard output after a run: one line per print byte, in order (R208). -/
def standardOutput (s : State) : List Nat := s.out.flatMap printLine

/-- The process exit status of an ended run: 0 after Halted, a host parameter after Faulted (R204, R206, D23;
notes/assumptions/22.md). -/
def exitStatus (s : State) : Option Nat :=
  match s.run with
  | .running => none
  | .halted => some 0
  | .faulted => some Config.faultExitStatus

end Sys2Proof.Machine
end

