-- ==== Sys2Proof/Machine/Loader.lean ====
section
/-! DEFINITION. The program file at the loader boundary (70_reset_and_hazards.md R194). The loader is no part of the engine
(00_scope.md R4); it is here so that an image can be traced to a file. -/

namespace Sys2Proof.Machine

/-- White space around a literal: space, tab, carriage return, vertical tab and form feed. PRESUMED: R194 does not list
them (notes/assumptions/15.md). -/
def isBlank (c : Char) : Bool :=
  c.toNat == 0x20 || c.toNat == 0x09 || c.toNat == 0x0D || c.toNat == 0x0B || c.toNat == 0x0C

/-- The content of a line: everything from `#` on is ignored, and so is white space around the rest (R194). -/
def lineContent (line : List Char) : List Char :=
  (((line.takeWhile (· ≠ '#')).dropWhile isBlank).reverse.dropWhile isBlank).reverse

/-- The value of a base-2 literal, most significant bit first (R10); `none` if a character is not `0` or `1` (R194). -/
def binaryValue : Nat → List Char → Option Nat
  | acc, [] => some acc
  | acc, c :: cs =>
    if c = '0' then binaryValue (2 * acc) cs else if c = '1' then binaryValue (2 * acc + 1) cs else none

/-- What one line of a program file loads (R194). -/
inductive LineResult where
  /-- A blank or comment line, or no valid base-2 literal: skipped, without an error. -/
  | skipped
  /-- One byte. -/
  | byte (v : Byte)
  /-- A literal above 255: the file is refused (D14; notes/assumptions/14.md). -/
  | tooLarge
  deriving DecidableEq, Repr

/-- Reads one line (R194). -/
def readLine (line : List Char) : LineResult :=
  match lineContent line with
  | [] => .skipped
  | c :: cs =>
    match binaryValue 0 (c :: cs) with
    | none => .skipped
    | some n => if n < 256 then .byte (BitVec.ofNat 8 n) else .tooLarge

/-- The bytes of a file, given as its lines, in file order; `none` if the file is refused (R194, D14). -/
def readLines : List (List Char) → Option (List Byte)
  | [] => some []
  | line :: lines =>
    match readLine line with
    | .skipped => readLines lines
    | .byte v => (readLines lines).map (v :: ·)
    | .tooLarge => none

/-- The state a program file leaves before the first step; `none` if the loader refuses it (R193, R194). -/
def loadFile (lines : List (List Char)) : Option State :=
  match readLines lines with
  | some image => loadImage image
  | none => none

/-- A byte as a content line: eight base-2 characters, most significant bit first (R10, R194). -/
def binaryLine (v : Byte) : List Char :=
  [7, 6, 5, 4, 3, 2, 1, 0].map fun k => if v.getLsbD k then '1' else '0'

end Sys2Proof.Machine
end

