-- ==== Sys2Proof/Safety.lean ====
section
/-! DEFINITION. The terms statements about the machine are made in: frames, the invariant, and safe outcomes. -/

namespace Sys2Proof

open Machine

/-- The thirteen opcode values, written out from the table of R78. -/
def specOpcodes : List Byte :=
  [0x01, 0x82, 0x47, 0xA2, 0x45, 0x46, 0x50, 0x11, 0xA0, 0xA7, 0x54, 0x55, 0x56]

/-! ### Frames -/

/-- Every general register is as before. -/
def RegsSame (s t : State) : Prop := ∀ r : RegIndex, t.readReg r = s.readReg r

/-- Every general register but `d` is as before. -/
def RegsSameExcept (d : RegIndex) (s t : State) : Prop := ∀ r : RegIndex, r ≠ d → t.readReg r = s.readReg r

/-- Every byte of memory reads as before. -/
def MemSame (s t : State) : Prop := ∀ a : Addr, t.readMem a = s.readMem a

/-- Every byte of memory but the one at `d` reads as before. -/
def MemSameExcept (d : Addr) (s t : State) : Prop := ∀ a : Addr, a ≠ d → t.readMem a = s.readMem a

/-- The run state and the fault record are as before. -/
def StatusSame (s t : State) : Prop := t.run = s.run ∧ t.fault = s.fault

/-- Neither output stream has grown. -/
def StreamsSame (s t : State) : Prop := t.out = s.out ∧ t.diag = s.diag

/-! ### The invariant -/

/-- What holds of every state a run reaches and every step keeps. -/
structure Inv (s : State) : Prop where
  /-- The memory is in its canonical form. -/
  memory : s.mem.wf = true
  /-- `fl` is its reset value or one of the three values COMPARE writes, so bits 7..3 are 0 (R31, R32, R34). -/
  flags : s.fl = Config.flReset ∨ s.fl = flagsEqual ∨ s.fl = flagsGreater ∨ s.fl = flagsLess
  /-- While Running there is no fault record (R38, R39). -/
  running : s.run = .running → s.fault = none
  /-- A Halted engine stands at a HALT byte (R110, D9) and has no fault record (R38, R39). -/
  halted : s.run = .halted → s.readMem s.pc = opHalt ∧ s.fault = none
  /-- A Faulted engine stands at the faulting instruction, and its record names that instruction's address and opcode and
  one of its operand bytes, which is 8 or more (R39, R172, R173). -/
  faulted : s.run = .faulted → ∃ v : Byte, s.fault = some ⟨.registerIndex, s.pc, s.fetch.op, v⟩ ∧
    8 ≤ v.toNat ∧ (v = s.fetch.a ∨ v = s.fetch.b)

/-- The invariant of the block: in the load phase the engine is the reset engine but for its memory (R192). -/
structure BlockInv (b : Block) : Prop where
  engine : Inv b.engine
  loadPhase : b.loading = true → b.engine = { State.reset with mem := b.engine.mem }

/-! ### Safe outcomes -/

/-- A step is safe when it answers a next state: no fault of the model and no refusal (R104). -/
def Safe (o : Host.Outcome State Fault Refusal) : Prop := ∃ t, o = .next t

end Sys2Proof
end

