-- ==== Sys2Proof/Certificates/Slice0/Obligations.lean ====
section
/-! DEFINITION. The statements about the machine, for the provers. Where a clause rests on a decision of the spec's own
(92_eei_decisions.md D<n>) and not on its source, the docstring says so and names the log entry. -/

open Sys2Proof
open Sys2Proof.Machine

/-! ### Encoding and decoding -/

/-- Sanity: words written out from the encodings of R78 decode to their instructions (30_encoding.md section 3). -/
def Obligations.SpecWordsDecode : Prop :=
  decode (Fetched.ofBytes [0b00000001]) = .instruction .halt ∧
  decode (Fetched.ofBytes [0b10000010, 0b00000000, 0b00001000]) = .instruction (.loadImmediate 0 8) ∧
  decode (Fetched.ofBytes [0b01000101, 0b00000010]) = .instruction (.push 2) ∧
  decode (Fetched.ofBytes [0b01010000, 0b00000001]) = .instruction (.call 1) ∧
  decode (Fetched.ofBytes [0b10100000, 0b00000000, 0b00000001]) = .instruction (.add 0 1) ∧
  decode (Fetched.ofBytes [0b10100111, 0b00000010, 0b00000101]) = .instruction (.compare 2 5) ∧
  decode (Fetched.ofBytes [0b01010110, 0b00000010]) = .instruction (.jumpIfNotEqual 2) ∧
  decode (Fetched.ofBytes [0b10100001, 0, 1]) = .unrecognizedOpcode 0b10100001

/-- Decoding what was encoded gives the instruction back, whatever bytes follow it in memory, for every instruction with every
operand byte 0..255, the ill-formed ones too (30_encoding.md sections 1 to 3). -/
def Obligations.DecodeEncodeRoundTrip : Prop :=
  ∀ (i : Instr) (rest : List Byte), decode (Fetched.ofBytes (encode i ++ rest)) = .instruction i

/-- The decoder reads an instruction from three bytes exactly when the instruction's encoding is what they begin with, so no
two instructions share bytes and no neighbour's encoding falls through (30_encoding.md sections 1 to 4). -/
def Obligations.DecodeExactlyTheEncoding : Prop :=
  ∀ (f : Fetched) (i : Instr), decode f = .instruction i ↔ encode i <+: [f.op, f.a, f.b]

/-- R76: a byte equal to one of the thirteen values selects that instruction; every other byte is unrecognized; no other byte
takes part in the choice. -/
def Obligations.OpcodeByteAloneSelects : Prop :=
  ∀ f : Fetched,
    (f.op ∈ specOpcodes → ∃ i, decode f = .instruction i ∧ i.opcode = f.op) ∧
    (f.op ∉ specOpcodes → decode f = .unrecognizedOpcode f.op) ∧
    (∀ i j : Instr, i.opcode = j.opcode → i.registerOperands.length = j.registerOperands.length ∧ i.length = j.length)

/-- R74: operand bytes that the format marks "fetched, ignored" may hold any value; the step's effect and its faults are the
same. Formats F0 and the unrecognized opcodes ignore both operand bytes, format F1R ignores the second (R71, R111). -/
def Obligations.IgnoredOperandBytesHaveNoEffect : Prop :=
  ∀ (op a b a' b' : Byte) (s : State),
    ((op = 0x01 ∨ op = 0x11 ∨ op ∉ specOpcodes) → execFetched ⟨op, a, b⟩ s = execFetched ⟨op, a', b'⟩ s) ∧
    (op ∈ [0x47, 0x45, 0x46, 0x50, 0x54, 0x55, 0x56] → execFetched ⟨op, a, b⟩ s = execFetched ⟨op, a, b'⟩ s)

/-! ### The step -/

/-- A running engine whose three bytes at `pc`, `pc+1`, `pc+2` (mod 256) decode to an instruction performs exactly that
instruction: the step adds nothing around it, and `pc` is moved by the instruction itself (40_engine_cycle.md section 1). The
wrap of the operand addresses is the spec's decision D3 (notes/assumptions/1.md). -/
def Obligations.StepRunsDecodedInstruction : Prop :=
  ∀ (s : State) (i : Instr), s.run = .running →
    decode ⟨s.readMem s.pc, s.readMem (BitVec.ofNat 8 ((s.pc.toNat + 1) % 256)),
      s.readMem (BitVec.ofNat 8 ((s.pc.toNat + 2) % 256))⟩ = .instruction i →
    step s = exec i s

/-- A running engine at whose `pc` the bytes of an instruction stand, at ascending addresses mod 256, performs that instruction,
whatever stands after it (30_encoding.md section 1, 40_engine_cycle.md section 1; the wrap is D3, notes/assumptions/1.md). -/
def Obligations.StepRunsEncodingAtPc : Prop :=
  ∀ (s : State) (i : Instr), s.run = .running →
    (∀ (k : Nat) (h : k < (encode i).length), s.readMem (BitVec.ofNat 8 (s.pc.toNat + k)) = (encode i)[k]) →
    step s = exec i s

/-- An unrecognized opcode is reported as (pc, op) and skipped, and nothing else changes (40_engine_cycle.md section 3). The
report's content and the wrap of `pc` past 255 are the spec's decisions D12 and D4 (notes/assumptions/10.md and 2.md). -/
def Obligations.UnrecognizedOpcodeReportedAndSkipped : Prop :=
  ∀ s : State, s.run = .running → s.readMem s.pc ∉ specOpcodes →
    ∃ t, step s = .next t ∧ t.diag = s.diag ++ [⟨s.pc, s.readMem s.pc⟩] ∧ t.pc.toNat = (s.pc.toNat + 1) % 256 ∧
      RegsSame s t ∧ t.sp = s.sp ∧ t.fl = s.fl ∧ MemSame s t ∧ StatusSame s t ∧ t.out = s.out

/-- In Halted and in Faulted no step is enabled: a step request changes nothing and emits nothing (40_engine_cycle.md section 1).
That a step request then answers the same state is the model's reading (D11, notes/assumptions/9.md). -/
def Obligations.StoppedEngineStandsStill : Prop :=
  ∀ s : State, (s.run = .halted ∨ s.run = .faulted) → step s = .next s ∧ stepEvents s s = []

/-- Every instruction and every step leads to a next state, from every state: nothing stops the model
(40_engine_cycle.md section 1; that a bad register index leads to a next state is D7 and D10, notes/assumptions/5.md). -/
def Obligations.EveryStepHasNextState : Prop :=
  (∀ (i : Instr) (s : State), Safe (exec i s)) ∧ ∀ s : State, Safe (step s)

/-- R174: UnsupportedAluOperation is never raised, by any instruction or any step. -/
def Obligations.UnsupportedAluOperationNeverRaised : Prop :=
  (∀ (i : Instr) (s : State), exec i s ≠ .fault .unsupportedAluOperation) ∧
    ∀ s : State, step s ≠ .fault .unsupportedAluOperation

/-! ### What each instruction does, and its frame

Every statement of this part concludes that the instruction answers a next state; its hypotheses say only that the register
operands name registers. Where `pc` or `sp` could pass 255 or 0, the wrap is the spec's decision D4 or D5
(notes/assumptions/2.md and 3.md). -/

/-- ADD (41_arithmetic.md section 2). -/
def Obligations.AddResultAndFrame : Prop :=
  ∀ (a b : Byte) (s : State) (ha : a.toNat < 8) (hb : b.toNat < 8),
    ∃ t, exec (.add a b) s = .next t ∧
      (t.readReg ⟨a.toNat, ha⟩).toNat =
        ((s.readReg ⟨a.toNat, ha⟩).toNat + (s.readReg ⟨b.toNat, hb⟩).toNat) % 256 ∧
      RegsSameExcept ⟨a.toNat, ha⟩ s t ∧ t.pc.toNat = (s.pc.toNat + 3) % 256 ∧ t.sp = s.sp ∧ t.fl = s.fl ∧
      MemSame s t ∧ StatusSame s t ∧ StreamsSame s t

/-- MULTIPLY (41_arithmetic.md section 3). -/
def Obligations.MultiplyResultAndFrame : Prop :=
  ∀ (a b : Byte) (s : State) (ha : a.toNat < 8) (hb : b.toNat < 8),
    ∃ t, exec (.multiply a b) s = .next t ∧
      (t.readReg ⟨a.toNat, ha⟩).toNat =
        ((s.readReg ⟨a.toNat, ha⟩).toNat * (s.readReg ⟨b.toNat, hb⟩).toNat) % 256 ∧
      RegsSameExcept ⟨a.toNat, ha⟩ s t ∧ t.pc.toNat = (s.pc.toNat + 3) % 256 ∧ t.sp = s.sp ∧ t.fl = s.fl ∧
      MemSame s t ∧ StatusSame s t ∧ StreamsSame s t

/-- For all register values, ADD and MULTIPLY produce the sum and the product mod 256 (for a product, the low 8 bits of the exact
16-bit one), one register used twice included, and the wrap is never signalled: no flag, fault or event (41_arithmetic.md
section 1). -/
def Obligations.ArithmeticWrapsUnsignalled : Prop :=
  ∀ (p q : Byte) (a b : Byte) (s : State) (ha : a.toNat < 8) (hb : b.toNat < 8),
    s.readReg ⟨a.toNat, ha⟩ = p → s.readReg ⟨b.toNat, hb⟩ = q →
    ∃ t u, exec (.add a b) s = .next t ∧ exec (.multiply a b) s = .next u ∧
      (t.readReg ⟨a.toNat, ha⟩).toNat = (p.toNat + q.toNat) % 256 ∧
      u.readReg ⟨a.toNat, ha⟩ = (p.zeroExtend 16 * q.zeroExtend 16).extractLsb' 0 8 ∧
      (u.readReg ⟨a.toNat, ha⟩).toNat = (p.toNat * q.toNat) % 256 ∧
      t.fl = s.fl ∧ u.fl = s.fl ∧ StatusSame s t ∧ StatusSame s u ∧ StreamsSame s t ∧ StreamsSame s u

/-- LOAD-IMMEDIATE (42_data_movement.md section 1): every immediate byte loads as it is, into every register. -/
def Obligations.LoadImmediateResultAndFrame : Prop :=
  ∀ (a imm : Byte) (s : State) (ha : a.toNat < 8),
    ∃ t, exec (.loadImmediate a imm) s = .next t ∧ t.readReg ⟨a.toNat, ha⟩ = imm ∧
      RegsSameExcept ⟨a.toNat, ha⟩ s t ∧ t.pc.toNat = (s.pc.toNat + 3) % 256 ∧ t.sp = s.sp ∧ t.fl = s.fl ∧
      MemSame s t ∧ StatusSame s t ∧ StreamsSame s t

/-- PRINT-REGISTER (42_data_movement.md section 2): one print event and so one decimal line on standard output
(that the engine emits the byte is D13, notes/assumptions/11.md). -/
def Obligations.PrintRegisterResultAndFrame : Prop :=
  ∀ (a : Byte) (s : State) (ha : a.toNat < 8),
    ∃ t, exec (.printRegister a) s = .next t ∧ t.out = s.out ++ [s.readReg ⟨a.toNat, ha⟩] ∧
      stepEvents s t = [.out (s.readReg ⟨a.toNat, ha⟩)] ∧
      standardOutput t = standardOutput s ++ printLine (s.readReg ⟨a.toNat, ha⟩) ∧
      RegsSame s t ∧ t.pc.toNat = (s.pc.toNat + 2) % 256 ∧ t.sp = s.sp ∧ t.fl = s.fl ∧
      MemSame s t ∧ StatusSame s t ∧ t.diag = s.diag

/-- PUSH (43_stack.md section 1): the cell stored to is `pushAddr`, the same function the meaning uses, `(sp - 1) mod 256`. -/
def Obligations.PushResultAndFrame : Prop :=
  ∀ (a : Byte) (s : State) (ha : a.toNat < 8),
    ∃ t, exec (.push a) s = .next t ∧ t.sp = s.pushAddr ∧ t.sp.toNat = (s.sp.toNat + 255) % 256 ∧
      t.readMem s.pushAddr = s.readReg ⟨a.toNat, ha⟩ ∧ MemSameExcept s.pushAddr s t ∧
      RegsSame s t ∧ t.pc.toNat = (s.pc.toNat + 2) % 256 ∧ t.fl = s.fl ∧ StatusSame s t ∧ StreamsSame s t

/-- POP (43_stack.md section 2): the popped cell keeps its value. -/
def Obligations.PopResultAndFrame : Prop :=
  ∀ (a : Byte) (s : State) (ha : a.toNat < 8),
    ∃ t, exec (.pop a) s = .next t ∧ t.readReg ⟨a.toNat, ha⟩ = s.readMem s.sp ∧
      RegsSameExcept ⟨a.toNat, ha⟩ s t ∧ t.sp.toNat = (s.sp.toNat + 1) % 256 ∧
      t.pc.toNat = (s.pc.toNat + 2) % 256 ∧ t.fl = s.fl ∧ MemSame s t ∧ StatusSame s t ∧ StreamsSame s t

/-- CALL (44_control_transfer.md section 1): the stored return address is `(pc + 2) mod 256`, at `pushAddr` (D6,
notes/assumptions/4.md). -/
def Obligations.CallResultAndFrame : Prop :=
  ∀ (a : Byte) (s : State) (ha : a.toNat < 8),
    ∃ t, exec (.call a) s = .next t ∧ t.pc = s.readReg ⟨a.toNat, ha⟩ ∧ t.sp = s.pushAddr ∧
      t.sp.toNat = (s.sp.toNat + 255) % 256 ∧ (t.readMem s.pushAddr).toNat = (s.pc.toNat + 2) % 256 ∧
      MemSameExcept s.pushAddr s t ∧ RegsSame s t ∧ t.fl = s.fl ∧ StatusSame s t ∧ StreamsSame s t

/-- RETURN (44_control_transfer.md section 2), from every state. -/
def Obligations.ReturnResultAndFrame : Prop :=
  ∀ s : State,
    ∃ t, exec .ret s = .next t ∧ t.pc = s.readMem s.sp ∧ t.sp.toNat = (s.sp.toNat + 1) % 256 ∧
      RegsSame s t ∧ t.fl = s.fl ∧ MemSame s t ∧ StatusSame s t ∧ StreamsSame s t

/-- JUMP (44_control_transfer.md section 3). -/
def Obligations.JumpResultAndFrame : Prop :=
  ∀ (a : Byte) (s : State) (ha : a.toNat < 8),
    ∃ t, exec (.jump a) s = .next t ∧ t.pc = s.readReg ⟨a.toNat, ha⟩ ∧ t.sp = s.sp ∧
      RegsSame s t ∧ t.fl = s.fl ∧ MemSame s t ∧ StatusSame s t ∧ StreamsSame s t

/-- COMPARE (45_compare_branch.md section 1): the three outcomes, by the unsigned order. -/
def Obligations.CompareResultAndFrame : Prop :=
  ∀ (a b : Byte) (s : State) (ha : a.toNat < 8) (hb : b.toNat < 8),
    ∃ t, exec (.compare a b) s = .next t ∧
      ((s.readReg ⟨a.toNat, ha⟩).toNat = (s.readReg ⟨b.toNat, hb⟩).toNat → t.fl = 0x01) ∧
      ((s.readReg ⟨a.toNat, ha⟩).toNat > (s.readReg ⟨b.toNat, hb⟩).toNat → t.fl = 0x02) ∧
      ((s.readReg ⟨a.toNat, ha⟩).toNat < (s.readReg ⟨b.toNat, hb⟩).toNat → t.fl = 0x04) ∧
      RegsSame s t ∧ t.pc.toNat = (s.pc.toNat + 3) % 256 ∧ t.sp = s.sp ∧
      MemSame s t ∧ StatusSame s t ∧ StreamsSame s t

/-- JUMP-IF-EQUAL (45_compare_branch.md section 2): taken exactly when bit 0 of `fl` is 1. -/
def Obligations.JumpIfEqualResultAndFrame : Prop :=
  ∀ (a : Byte) (s : State) (ha : a.toNat < 8),
    ∃ t, exec (.jumpIfEqual a) s = .next t ∧
      (s.fl.toNat % 2 = 1 → t.pc = s.readReg ⟨a.toNat, ha⟩) ∧
      (s.fl.toNat % 2 = 0 → t.pc.toNat = (s.pc.toNat + 2) % 256) ∧
      t.sp = s.sp ∧ RegsSame s t ∧ t.fl = s.fl ∧ MemSame s t ∧ StatusSame s t ∧ StreamsSame s t

/-- JUMP-IF-NOT-EQUAL (45_compare_branch.md section 3): taken exactly when bit 0 of `fl` is 0. -/
def Obligations.JumpIfNotEqualResultAndFrame : Prop :=
  ∀ (a : Byte) (s : State) (ha : a.toNat < 8),
    ∃ t, exec (.jumpIfNotEqual a) s = .next t ∧
      (s.fl.toNat % 2 = 0 → t.pc = s.readReg ⟨a.toNat, ha⟩) ∧
      (s.fl.toNat % 2 = 1 → t.pc.toNat = (s.pc.toNat + 2) % 256) ∧
      t.sp = s.sp ∧ RegsSame s t ∧ t.fl = s.fl ∧ MemSame s t ∧ StatusSame s t ∧ StreamsSame s t

/-- HALT (40_engine_cycle.md section 2), from every state. That `pc` keeps the address of the HALT byte is the spec's decision D9
(notes/assumptions/8.md). -/
def Obligations.HaltResultAndFrame : Prop :=
  ∀ s : State,
    ∃ t, exec .halt s = .next t ∧ t.run = .halted ∧ t.pc = s.pc ∧ t.sp = s.sp ∧ t.fl = s.fl ∧ t.fault = s.fault ∧
      RegsSame s t ∧ MemSame s t ∧ StreamsSame s t

/-- R154: every byte is a legal target. A CALL, a JUMP, a taken branch and a RETURN each go to the byte that their register or the
top of the stack holds, whatever it is and wherever they stand, with no fault; CALL writes no register, so the return address
lives only on the stack. -/
def Obligations.EveryByteIsALegalTarget : Prop :=
  ∀ (v a : Byte) (s : State) (ha : a.toNat < 8),
    (s.readReg ⟨a.toNat, ha⟩ = v →
      (∃ t, exec (.call a) s = .next t ∧ t.pc = v ∧ StatusSame s t ∧ RegsSame s t) ∧
      (∃ t, exec (.jump a) s = .next t ∧ t.pc = v ∧ StatusSame s t) ∧
      (s.fl.toNat % 2 = 1 → ∃ t, exec (.jumpIfEqual a) s = .next t ∧ t.pc = v ∧ StatusSame s t) ∧
      (s.fl.toNat % 2 = 0 → ∃ t, exec (.jumpIfNotEqual a) s = .next t ∧ t.pc = v ∧ StatusSame s t)) ∧
    (s.readMem s.sp = v → ∃ t, exec .ret s = .next t ∧ t.pc = v ∧ StatusSame s t)

/-! ### Two instructions together -/

/-- A PUSH followed at once by a POP, of any two registers, from any `sp`: the popped register holds the pushed value and `sp` is
back (43_stack.md section 2). The wrap at the ends of memory is D5 (notes/assumptions/3.md). -/
def Obligations.PushThenPopRoundTrip : Prop :=
  ∀ (a b : Byte) (s : State) (ha : a.toNat < 8) (hb : b.toNat < 8),
    ∃ t u, exec (.push a) s = .next t ∧ exec (.pop b) t = .next u ∧
      u.readReg ⟨b.toNat, hb⟩ = s.readReg ⟨a.toNat, ha⟩ ∧ u.sp = s.sp ∧ RegsSameExcept ⟨b.toNat, hb⟩ s u

/-- A CALL, and then a RETURN from any state in which `sp` and the cell it addresses are what the CALL left: `pc` is the CALL's
address + 2 mod 256 and `sp` is its value before the CALL (44_control_transfer.md section 4; the wrap is D6,
notes/assumptions/4.md). -/
def Obligations.CallThenReturnSymmetry : Prop :=
  ∀ (a : Byte) (s : State), a.toNat < 8 →
    ∃ t, exec (.call a) s = .next t ∧
      ∀ u : State, u.sp = t.sp → u.readMem u.sp = t.readMem t.sp →
        ∃ w, exec .ret u = .next w ∧ w.pc.toNat = (s.pc.toNat + 2) % 256 ∧ w.sp = s.sp

/-- With one target register, exactly one of the two branches goes to the target and the other falls through, to
`(pc + 2) mod 256` (45_compare_branch.md section 3). The wrap of the fall-through is the spec's decision D4
(notes/assumptions/2.md, DESIGN CHOICE, unsafe). -/
def Obligations.ExactlyOneBranchTaken : Prop :=
  ∀ (a : Byte) (s : State) (ha : a.toNat < 8),
    ∃ t u, exec (.jumpIfEqual a) s = .next t ∧ exec (.jumpIfNotEqual a) s = .next u ∧
      ((t.pc = s.readReg ⟨a.toNat, ha⟩ ∧ u.pc.toNat = (s.pc.toNat + 2) % 256) ∨
        (u.pc = s.readReg ⟨a.toNat, ha⟩ ∧ t.pc.toNat = (s.pc.toNat + 2) % 256))

/-- A PUSH whose push lands on its own operand byte, at `pc + 1`, stores the register that the latched operand byte names; that
cell then holds the new byte, and the next fetch takes its opcode from `pc + 2`, which is unwritten (20_memory.md section 5,
70_reset_and_hazards.md section 3). PUSH and CALL over any of their own bytes, and what the next fetch sees of the written
byte, are `StoreSeenByNextFetchNotByItsOwn`. The wraps of `pc + 1`, `pc + 2` and `sp` are the spec's decisions D3, D4 and D5
(notes/assumptions/1.md, 2.md and 3.md). -/
def Obligations.PushOverItsOwnOperandUsesLatchedByte : Prop :=
  ∀ (s : State) (ha : s.fetch.a.toNat < 8), s.run = .running → s.fetch.op = 0x45 → s.sp = s.pc + 2 →
    ∃ t, step s = .next t ∧ t.readMem (s.pc + 1) = s.readReg ⟨s.fetch.a.toNat, ha⟩ ∧ t.sp = s.pc + 1 ∧
      t.fetch.op = s.readMem (s.pc + 2)

/-- A PUSH or a CALL, at any `sp`, so over any of its own bytes too: the step uses the bytes it has latched (the register that the
old operand byte names is stored or jumped to), and each of the three bytes the next step fetches is the stored byte where it
was fetched from the cell stored to, and the old byte everywhere else (20_memory.md section 5, 70_reset_and_hazards.md
section 3). The wraps of the fetch addresses, `pc`, `sp` and the return address are the spec's decisions D3, D4, D5 and D6
(notes/assumptions/1.md to 4.md). -/
def Obligations.StoreSeenByNextFetchNotByItsOwn : Prop :=
  ∀ (s : State) (ha : s.fetch.a.toNat < 8), s.run = .running → (s.fetch.op = 0x45 ∨ s.fetch.op = 0x50) →
    ∃ (t : State) (v : Byte), step s = .next t ∧
      (s.fetch.op = 0x45 → v = s.readReg ⟨s.fetch.a.toNat, ha⟩ ∧ t.pc = s.pc + 2) ∧
      (s.fetch.op = 0x50 → v.toNat = (s.pc.toNat + 2) % 256 ∧ t.pc = s.readReg ⟨s.fetch.a.toNat, ha⟩) ∧
      t.fetch.op = (if t.pc = s.sp - 1 then v else s.readMem t.pc) ∧
      t.fetch.a = (if t.pc + 1 = s.sp - 1 then v else s.readMem (t.pc + 1)) ∧
      t.fetch.b = (if t.pc + 2 = s.sp - 1 then v else s.readMem (t.pc + 2))

/-! ### Runs that do not end (70_reset_and_hazards.md section 3) -/

/-- A JUMP to its own address never ends and changes nothing, after any number of step requests. That there is no step bound is
the spec's decision D21 (notes/assumptions/26.md). -/
def Obligations.JumpToItselfNeverEnds : Prop :=
  ∀ (k : Nat) (s : State) (ha : s.fetch.a.toNat < 8), s.run = .running → s.fetch.op = 0x54 →
    s.readReg ⟨s.fetch.a.toNat, ha⟩ = s.pc →
    Block.moves ⟨s, false⟩ (List.replicate k .step) = some ⟨s, false⟩

/-- In memory that holds no opcode of the table (all zero, for one) a run never ends: after `k` steps `pc` has gone on by `k` mod
256, each byte passed has been reported in order, and nothing else has changed. No step bound: D21 (notes/assumptions/26.md);
the wrap of `pc` and the report: D4 and D12 (notes/assumptions/2.md and 10.md). -/
def Obligations.MemoryWithoutOpcodesNeverEnds : Prop :=
  ∀ (k : Nat) (s : State), s.run = .running → (∀ c : Addr, s.readMem c ∉ specOpcodes) →
    Block.moves ⟨s, false⟩ (List.replicate k .step) =
      some ⟨{ s with
        pc := BitVec.ofNat 8 (s.pc.toNat + k)
        diag := s.diag ++ (List.range k).map fun j =>
          ⟨BitVec.ofNat 8 (s.pc.toNat + j), s.readMem (BitVec.ofNat 8 (s.pc.toNat + j))⟩ }, false⟩

/-- A CALL to itself pushes once per step and stays where it is for as long as no push reaches its own two bytes: after `k` steps
`sp` is down by `k` mod 256, every cell the `k` pushes passed holds `(pc + 2) mod 256`, and no other cell has changed. When a
push does reach the operand byte and `(pc + 2) mod 256` is 8 or more, the step after it faults. This second clause is the model's choice: a corner case of
CALL's rule and the list of 70_reset_and_hazards.md section 3 say that a CALL to itself runs for ever, which its pseudocode, the
fetch coherence of 20_memory.md section 5 and the register check contradict (notes/assumptions/27.md). The wraps are D3, D5 and D6
(notes/assumptions/1.md, 3.md and 4.md), the fault is D7 and D10 (notes/assumptions/5.md). -/
def Obligations.CallToItselfRunsUntilItReachesItsOwnBytes : Prop :=
  ∀ (s : State) (ha : s.fetch.a.toNat < 8), s.run = .running → s.fetch.op = 0x50 →
    s.readReg ⟨s.fetch.a.toNat, ha⟩ = s.pc →
    (∀ k : Nat,
      (∀ j : Nat, j < k → s.sp - BitVec.ofNat 8 (j + 1) ≠ s.pc ∧ s.sp - BitVec.ofNat 8 (j + 1) ≠ s.pc + 1) →
      ∃ t, Block.moves ⟨s, false⟩ (List.replicate k .step) = some ⟨t, false⟩ ∧ t.run = .running ∧ t.pc = s.pc ∧
        t.sp = s.sp - BitVec.ofNat 8 k ∧ t.fetch.op = 0x50 ∧ t.fetch.a = s.fetch.a ∧ RegsSame s t ∧ t.fl = s.fl ∧
        StreamsSame s t ∧
        (∀ j : Nat, j < k → (t.readMem (s.sp - BitVec.ofNat 8 (j + 1))).toNat = (s.pc.toNat + 2) % 256) ∧
        (∀ c : Addr, (∀ j : Nat, j < k → c ≠ s.sp - BitVec.ofNat 8 (j + 1)) → t.readMem c = s.readMem c)) ∧
    (s.sp = s.pc + 2 → 8 ≤ (s.pc.toNat + 2) % 256 →
      ∃ t u, step s = .next t ∧ step t = .next u ∧ u.run = .faulted ∧
        u.fault = some ⟨.registerIndex, s.pc, 0x50, BitVec.ofNat 8 (s.pc.toNat + 2)⟩)

/-! ### Faults -/

/-- An instruction faults exactly when a register operand is 8 or more. Of two bad operands the first is recorded; the fault
changes the run state and the record and nothing else. With every operand good there is no fault
(60_exceptions.md sections 1 and 3). All of it is the spec's own decision: D7, D10, D20 (notes/assumptions/5.md and 6.md). -/
def Obligations.FaultExactlyOnFirstBadOperand : Prop :=
  ∀ (i : Instr) (s : State),
    (∀ v, i.registerOperands.find? (fun v => decide (8 ≤ v.toNat)) = some v →
      ∃ t, exec i s = .next t ∧ t.run = .faulted ∧ t.fault = some ⟨.registerIndex, s.pc, i.opcode, v⟩ ∧
        RegsSame s t ∧ t.pc = s.pc ∧ t.sp = s.sp ∧ t.fl = s.fl ∧ MemSame s t ∧ StreamsSame s t) ∧
    (i.wellFormed = true →
      ∃ t, exec i s = .next t ∧ t.fault = s.fault ∧ ((i ≠ .halt → t.run = s.run) ∧ (i = .halt → t.run = .halted)))

/-- A step that takes a running engine to Faulted leaves exactly the state before it, plus the run state and the record; the
record names the address and opcode at `pc` and one of the latched operand bytes, 8 or more (60_exceptions.md section 1). The
fault is the spec's own decision: D7, D10 (notes/assumptions/5.md). -/
def Obligations.FaultIsPrecise : Prop :=
  ∀ s t : State, s.run = .running → step s = .next t → t.run = .faulted →
    ∃ v : Byte, 8 ≤ v.toNat ∧ (v = s.fetch.a ∨ v = s.fetch.b) ∧
      t = { s with run := .faulted, fault := some ⟨.registerIndex, s.pc, s.readMem s.pc, v⟩ }

/-- HALT is the only transition from Running to Halted, and a bad register index of a recognized opcode the only one to Faulted
(10_state.md section 7, 40_engine_cycle.md section 2; Faulted is D7, notes/assumptions/5.md). -/
def Obligations.OnlyHaltHalts : Prop :=
  ∀ s t : State, s.run = .running → step s = .next t →
    (t.run = .halted ↔ s.readMem s.pc = 0x01) ∧
    (t.run = .faulted ↔ ∃ i, decode s.fetch = .instruction i ∧ i.wellFormed = false)

/-! ### Rules of the whole machine -/

/-- R32: only COMPARE writes `fl`, and it writes the whole byte, exactly one of 0x04, 0x02 and 0x01; no other step changes it. -/
def Obligations.OnlyCompareWritesFlags : Prop :=
  ∀ s t : State, step s = .next t →
    (t.fl ≠ s.fl → s.run = .running ∧ s.readMem s.pc = 0xA7) ∧
    (∀ a b : Byte, a.toNat < 8 → b.toNat < 8 →
      ∃ u, exec (.compare a b) s = .next u ∧ (u.fl = 0x04 ∨ u.fl = 0x02 ∨ u.fl = 0x01))

/-- R33: only the two branches read `fl`, and they read only bit 0; no instruction moves `fl` anywhere. Two states that differ in
`fl` alone (in any way for other opcodes; in bits 7..1 for the branches) step to states that differ in `fl` alone, and then only
where the step left `fl` as it was. -/
def Obligations.FlagsReadOnlyByBranchesAndOnlyEqualBit : Prop :=
  ∀ (s t : State) (f : Byte), step s = .next t →
    ((s.readMem s.pc ≠ 0x55 ∧ s.readMem s.pc ≠ 0x56) ∨ f.toNat % 2 = s.fl.toNat % 2) →
    ∃ t', step { s with fl := f } = .next t' ∧ { t' with fl := t.fl } = t ∧
      (t'.fl = t.fl ∨ (t'.fl = f ∧ t.fl = s.fl))

/-- After a COMPARE that did not fault, exactly one of E, G and L is set, each exactly when the unsigned order of the two registers
says so, and bits 7..3 are 0 (45_compare_branch.md section 1). -/
def Obligations.CompareBitsExclusive : Prop :=
  ∀ (s t : State) (ha : s.fetch.a.toNat < 8) (hb : s.fetch.b.toNat < 8), s.run = .running → s.fetch.op = 0xA7 →
    step s = .next t →
    (t.equalBit = true ↔ s.readReg ⟨s.fetch.a.toNat, ha⟩ = s.readReg ⟨s.fetch.b.toNat, hb⟩) ∧
    (t.greaterBit = true ↔ (s.readReg ⟨s.fetch.a.toNat, ha⟩).toNat > (s.readReg ⟨s.fetch.b.toNat, hb⟩).toNat) ∧
    (t.lessBit = true ↔ (s.readReg ⟨s.fetch.a.toNat, ha⟩).toNat < (s.readReg ⟨s.fetch.b.toNat, hb⟩).toNat) ∧
    t.fl.toNat < 8 ∧ t.equalBit.toNat + t.greaterBit.toNat + t.lessBit.toNat = 1

/-- The next `pc` of a step that does not fault, by opcode (10_state.md section 3). The wraps are D4 (notes/assumptions/2.md) and
HALT's `pc` is D9 (notes/assumptions/8.md). -/
def Obligations.NextPcByOpcode : Prop :=
  ∀ s t : State, s.run = .running → step s = .next t → t.run ≠ .faulted →
    (s.fetch.op = 0x01 → t.pc = s.pc) ∧
    (s.fetch.op ∈ [0x82, 0xA2, 0xA0, 0xA7] → t.pc.toNat = (s.pc.toNat + 3) % 256) ∧
    (s.fetch.op ∈ [0x47, 0x45, 0x46] → t.pc.toNat = (s.pc.toNat + 2) % 256) ∧
    (s.fetch.op ∈ [0x50, 0x54] → ∃ h : s.fetch.a.toNat < 8, t.pc = s.readReg ⟨s.fetch.a.toNat, h⟩) ∧
    (s.fetch.op = 0x11 → t.pc = s.readMem s.sp) ∧
    (s.fetch.op = 0x55 → ∃ h : s.fetch.a.toNat < 8,
      t.pc = if s.fl.getLsbD 0 then s.readReg ⟨s.fetch.a.toNat, h⟩ else BitVec.ofNat 8 (s.pc.toNat + 2)) ∧
    (s.fetch.op = 0x56 → ∃ h : s.fetch.a.toNat < 8,
      t.pc = if s.fl.getLsbD 0 then BitVec.ofNat 8 (s.pc.toNat + 2) else s.readReg ⟨s.fetch.a.toNat, h⟩) ∧
    (s.fetch.op ∉ specOpcodes → t.pc.toNat = (s.pc.toNat + 1) % 256)

/-- A step changes at most the register its first operand names, and only LOAD-IMMEDIATE, MULTIPLY, POP and ADD change one
(10_state.md section 2). -/
def Obligations.OnlyFourOpcodesWriteARegister : Prop :=
  ∀ (s t : State) (r : RegIndex), step s = .next t → t.readReg r ≠ s.readReg r →
    s.run = .running ∧ s.readMem s.pc ∈ [0x82, 0xA2, 0x46, 0xA0] ∧ s.fetch.a.toNat = r.val

/-- A step changes at most one cell of memory, the one below `sp`, and only PUSH and CALL change one (20_memory.md section 1).
The wrap at address 0 is D5 (notes/assumptions/3.md). -/
def Obligations.OnlyPushAndCallWriteMemory : Prop :=
  ∀ (s t : State) (c : Addr), step s = .next t → t.readMem c ≠ s.readMem c →
    s.run = .running ∧ s.readMem s.pc ∈ [0x45, 0x50] ∧ c.toNat = (s.sp.toNat + 255) % 256 ∧ t.sp = c

/-- Only PUSH and CALL decrement `sp`, and only POP and RETURN increment it (10_state.md section 4). The wraps are D5
(notes/assumptions/3.md). -/
def Obligations.OnlyStackInstructionsMoveSp : Prop :=
  ∀ s t : State, step s = .next t → t.sp ≠ s.sp →
    s.run = .running ∧
      ((s.readMem s.pc ∈ [0x45, 0x50] ∧ t.sp.toNat = (s.sp.toNat + 255) % 256) ∨
        (s.readMem s.pc ∈ [0x46, 0x11] ∧ t.sp.toNat = (s.sp.toNat + 1) % 256))

/-- A step emits at most one event: the register's value by a PRINT-REGISTER, or (pc, op) by an unrecognized opcode; the streams
only ever grow (10_state.md section 7). The report's content is D12 (notes/assumptions/10.md). -/
def Obligations.AtMostOneEventPerStep : Prop :=
  ∀ s t : State, step s = .next t →
    (t.out = s.out ∧ t.diag = s.diag ∧ stepEvents s t = []) ∨
    (s.readMem s.pc = 0x47 ∧ t.diag = s.diag ∧
      ∃ h : s.fetch.a.toNat < 8, t.out = s.out ++ [s.readReg ⟨s.fetch.a.toNat, h⟩] ∧
        stepEvents s t = [.out (s.readReg ⟨s.fetch.a.toNat, h⟩)]) ∨
    (s.readMem s.pc ∉ specOpcodes ∧ t.out = s.out ∧ t.diag = s.diag ++ [⟨s.pc, s.readMem s.pc⟩] ∧
      stepEvents s t = [.diag ⟨s.pc, s.readMem s.pc⟩])

/-- The streams are write-only: what has been printed and reported never changes what a step does
(10_state.md section 7, 60_exceptions.md section 6). -/
def Obligations.OutputStreamsAreWriteOnly : Prop :=
  ∀ (s t : State) (o : List Byte) (d : List DiagEvent), step s = .next t →
    ∃ (o' : List Byte) (d' : List DiagEvent), t.out = s.out ++ o' ∧ t.diag = s.diag ++ d' ∧
      step { s with out := o, diag := d } = .next { t with out := o ++ o', diag := d ++ d' }

/-! ### Reset, the load phase and the invariant -/

/-- R25: every register is 0 after reset. -/
def Obligations.RegistersZeroAtReset : Prop := ∀ r : RegIndex, State.reset.readReg r = 0

/-- The whole reset state, and that a reset request gives it from every state of the block (70_reset_and_hazards.md section 1).
`fl` = 0 is the spec's decision D8 (notes/assumptions/7.md) and reset at any time is D19 (notes/assumptions/16.md). -/
def Obligations.ResetStateAsSpecified : Prop :=
  (∀ b : Block, b.move .reset = some ⟨State.reset, true⟩) ∧
  (∀ r : RegIndex, State.reset.readReg r = 0) ∧ State.reset.pc = 0 ∧ State.reset.sp = 0xF4 ∧ State.reset.fl = 0 ∧
  (∀ c : Addr, State.reset.readMem c = 0) ∧ State.reset.run = .running ∧ State.reset.fault = none ∧
  State.reset.out = [] ∧ State.reset.diag = []

/-- R51: at construction every cell is 0; the image goes to consecutive addresses from 0; cells beyond it stay 0; and a file of
only comment and blank lines loads zero bytes, so memory stays all zero. -/
def Obligations.ImageLoadsFromAddressZero : Prop :=
  (∀ c : Addr, State.reset.readMem c = 0) ∧
  (∀ image : List Byte, image.length ≤ 256 →
    ∃ s, loadImage image = some s ∧
      (∀ (k : Nat) (h : k < image.length), s.readMem (BitVec.ofNat 8 k) = image[k]) ∧
      (∀ k : Nat, image.length ≤ k → k < 256 → s.readMem (BitVec.ofNat 8 k) = 0) ∧
      s = { State.reset with mem := s.mem }) ∧
  ∀ lines : List (List Char),
    (∀ l ∈ lines, ∃ (n : Nat) (comment : List Char), l = List.replicate n ' ' ∨ l = List.replicate n ' ' ++ '#' :: comment) →
    loadFile lines = some State.reset

/-- Writing an image through the load port, byte by byte after reset, gives the loaded state with the port still open; an image
of more than 256 bytes is refused (70_reset_and_hazards.md section 2). The refusal is D14 (notes/assumptions/14.md). -/
def Obligations.LoadPortWritesGiveTheImage : Prop :=
  ∀ image : List Byte,
    (image.length ≤ 256 → ∃ s, loadImage image = some s ∧ Block.reset.moves (loadMoves 0 image) = some ⟨s, true⟩) ∧
    (256 < image.length → loadImage image = none)

/-- From the first step until the next reset the load port is closed, and a host write through it is no move
(70_reset_and_hazards.md section 2). This is the spec's decision D15 (notes/assumptions/12.md). -/
def Obligations.LoadPortClosedAfterFirstStep : Prop :=
  ∀ (b : Block) (ms : List HostMove) (c : Block) (addr : Addr) (data : Byte), HostMove.reset ∉ ms →
    b.moves (.step :: ms) = some c → c.move (.load addr data) = none

/-- A file of content lines, one per byte of an image, loads that image (70_reset_and_hazards.md section 2, at the boundary of the
block); a comment after `#` on a line of its own between them is skipped. -/
def Obligations.ProgramFileLoadsItsBytes : Prop :=
  ∀ (image : List Byte) (comment : List Char), image.length ≤ 256 →
    loadFile (image.map binaryLine) = loadImage image ∧
    loadFile (image.flatMap fun v => [' ' :: '#' :: comment, binaryLine v ++ ' ' :: '#' :: comment]) = loadImage image

/-- The invariant holds after reset. Its halted and faulted clauses rest on D9, D7 and D10. -/
def Obligations.InvariantHoldsAtReset : Prop := Inv State.reset ∧ BlockInv Block.reset

/-- Every step keeps the invariant: canonical memory, legal flags, no fault record while running, a halted engine at a HALT byte,
a faulted engine at the instruction its record names (10_state.md, 40_engine_cycle.md, 60_exceptions.md). The last two clauses
rest on D9, D7 and D10 (notes/assumptions/8.md and 5.md). -/
def Obligations.StepKeepsInvariant : Prop :=
  ∀ s t : State, Inv s → step s = .next t → Inv t

/-- Every host move keeps the block's invariant: resets and load-port writes too (70_reset_and_hazards.md sections 1, 2 and 5), and
steps (10_state.md, 40_engine_cycle.md, 60_exceptions.md). The halted and faulted clauses of `Inv` rest on D9, D7 and D10
(notes/assumptions/8.md and 5.md). That the load port is closed from the first step on is D15 (notes/assumptions/12.md): a load
during a run could break the invariant. The reset value of `fl` is D8 (notes/assumptions/7.md), the reset at any time D19
(notes/assumptions/16.md), and the ports are D2 (notes/assumptions/12.md). -/
def Obligations.HostMovesKeepBlockInvariant : Prop :=
  ∀ (b c : Block) (m : HostMove), BlockInv b → b.move m = some c → BlockInv c

/-- Canonical memories that read alike are the same data, so comparing two states compares what their cells hold
(20_memory.md section 1; the sparse form is the model's, notes/assumptions/18.md). -/
def Obligations.CanonicalMemoriesReadingAlikeAreEqual : Prop :=
  ∀ m n : Memory, m.wf = true → n.wf = true → (∀ a : Addr, m.read a = n.read a) → m = n

/-! ### A CALL to itself that overwrites its own bytes (70_reset_and_hazards.md section 3) -/

/-- A CALL to itself never ends, through the overwriting of its own bytes and after it, provided that `(pc + 2) mod 256`, the byte
it pushes, is a register number of 7 or less whose register holds `pc` too, that this byte is not 1 (the opcode of HALT), and that
no opcode stands in a cell that the pushes down to `pc` do not pass (without the last two the model's run can halt). After any
number of steps the engine is running with `fault` as before, each cell those pushes have passed holds `(pc + 2) mod 256`, and the
registers, `fl` and the other cells are as before.

The last clause, and that the pushes stop once the opcode byte is overwritten, are the MODEL'S CHOICE (DESIGN CHOICE, unsafe,
notes/assumptions/27.md), against "overwrites all memory with return addresses" (70_reset_and_hazards.md section 3, R201) and
"pushes once per step for ever" (44_control_transfer.md section 1, R150): the model follows CALL's pseudocode and the fetch
coherence of 20_memory.md section 5. All memory is overwritten where `sp` is `pc` at the start. No step bound: D21
(notes/assumptions/26.md). The wraps are D3, D4, D5 and D6 (notes/assumptions/1.md to 4.md). -/
def Obligations.CallToItselfNeverEndsWhereItsReturnAddressCallsItToo : Prop :=
  ∀ (k : Nat) (s : State) (ha : s.fetch.a.toNat < 8) (hv : (s.pc + 2).toNat < 8), s.pc + 2 ≠ 0x01 →
    s.run = .running → s.fetch.op = 0x50 →
    s.readReg ⟨s.fetch.a.toNat, ha⟩ = s.pc → s.readReg ⟨(s.pc + 2).toNat, hv⟩ = s.pc →
    (∀ c : Addr, s.readMem c ∈ specOpcodes → (s.sp - 1 - c).toNat ≤ (s.sp - 1 - s.pc).toNat) →
    ∃ t, Block.moves ⟨s, false⟩ (List.replicate k .step) = some ⟨t, false⟩ ∧ t.run = .running ∧ t.fault = s.fault ∧
      RegsSame s t ∧ t.fl = s.fl ∧
      (∀ j : Nat, j < k → j ≤ (s.sp - 1 - s.pc).toNat → t.readMem (s.sp - BitVec.ofNat 8 (j + 1)) = s.pc + 2) ∧
      (∀ c : Addr, (s.sp - 1 - s.pc).toNat < (s.sp - 1 - c).toNat → t.readMem c = s.readMem c)
end

