-- ==== Sys2Proof/Laws/Decode.lean ====
section
/-! SUPPORT. What the decoder answers for each opcode byte: proofs cite these and do not unfold the chain of comparisons. -/

namespace Sys2Proof

variable {f : Fetched}

theorem decode_opHalt (h : f.op = opHalt) : decode f = .instruction .halt := by
  obtain ⟨_, _, _⟩ := f; subst h; rfl

theorem decode_opLoadImmediate (h : f.op = opLoadImmediate) : decode f = .instruction (.loadImmediate f.a f.b) := by
  obtain ⟨_, _, _⟩ := f; subst h; rfl

theorem decode_opPrintRegister (h : f.op = opPrintRegister) : decode f = .instruction (.printRegister f.a) := by
  obtain ⟨_, _, _⟩ := f; subst h; rfl

theorem decode_opMultiply (h : f.op = opMultiply) : decode f = .instruction (.multiply f.a f.b) := by
  obtain ⟨_, _, _⟩ := f; subst h; rfl

theorem decode_opPush (h : f.op = opPush) : decode f = .instruction (.push f.a) := by
  obtain ⟨_, _, _⟩ := f; subst h; rfl

theorem decode_opPop (h : f.op = opPop) : decode f = .instruction (.pop f.a) := by
  obtain ⟨_, _, _⟩ := f; subst h; rfl

theorem decode_opCall (h : f.op = opCall) : decode f = .instruction (.call f.a) := by
  obtain ⟨_, _, _⟩ := f; subst h; rfl

theorem decode_opRet (h : f.op = opRet) : decode f = .instruction .ret := by
  obtain ⟨_, _, _⟩ := f; subst h; rfl

theorem decode_opAdd (h : f.op = opAdd) : decode f = .instruction (.add f.a f.b) := by
  obtain ⟨_, _, _⟩ := f; subst h; rfl

theorem decode_opCompare (h : f.op = opCompare) : decode f = .instruction (.compare f.a f.b) := by
  obtain ⟨_, _, _⟩ := f; subst h; rfl

theorem decode_opJump (h : f.op = opJump) : decode f = .instruction (.jump f.a) := by
  obtain ⟨_, _, _⟩ := f; subst h; rfl

theorem decode_opJumpIfEqual (h : f.op = opJumpIfEqual) : decode f = .instruction (.jumpIfEqual f.a) := by
  obtain ⟨_, _, _⟩ := f; subst h; rfl

theorem decode_opJumpIfNotEqual (h : f.op = opJumpIfNotEqual) : decode f = .instruction (.jumpIfNotEqual f.a) := by
  obtain ⟨_, _, _⟩ := f; subst h; rfl

/-- A byte that is none of the thirteen opcodes is unrecognized (R76, R79). -/
theorem decode_unrecognized (h1 : f.op ≠ opHalt) (h2 : f.op ≠ opLoadImmediate) (h3 : f.op ≠ opPrintRegister) (h4 : f.op ≠
    opMultiply) (h5 : f.op ≠ opPush) (h6 : f.op ≠ opPop) (h7 : f.op ≠ opCall) (h8 : f.op ≠ opRet) (h9 : f.op
    ≠ opAdd) (h10 : f.op ≠ opCompare) (h11 : f.op ≠ opJump) (h12 : f.op ≠ opJumpIfEqual) (h13 : f.op ≠
    opJumpIfNotEqual) :
    decode f = .unrecognizedOpcode f.op := by
  simp only [decode, h1, h2, h3, h4, h5, h6, h7, h8, h9, h10, h11, h12, h13, if_false]

end Sys2Proof
end

