-- ==== Sys2Proof/Laws/State.lean ====
section
/-! SUPPORT. One lemma per field of State per named update, each true by unfolding, so that no proof unfolds a record update. -/

namespace Sys2Proof.Machine

variable (s : State)

/-! ### writeReg -/

@[simp] theorem State.writeReg_x (r : RegIndex) (v : Byte) : (s.writeReg r v).x = s.x.set r v := rfl
@[simp] theorem State.writeReg_pc (r : RegIndex) (v : Byte) : (s.writeReg r v).pc = s.pc := rfl
@[simp] theorem State.writeReg_sp (r : RegIndex) (v : Byte) : (s.writeReg r v).sp = s.sp := rfl
@[simp] theorem State.writeReg_fl (r : RegIndex) (v : Byte) : (s.writeReg r v).fl = s.fl := rfl
@[simp] theorem State.writeReg_mem (r : RegIndex) (v : Byte) : (s.writeReg r v).mem = s.mem := rfl
@[simp] theorem State.writeReg_run (r : RegIndex) (v : Byte) : (s.writeReg r v).run = s.run := rfl
@[simp] theorem State.writeReg_fault (r : RegIndex) (v : Byte) : (s.writeReg r v).fault = s.fault := rfl
@[simp] theorem State.writeReg_out (r : RegIndex) (v : Byte) : (s.writeReg r v).out = s.out := rfl
@[simp] theorem State.writeReg_diag (r : RegIndex) (v : Byte) : (s.writeReg r v).diag = s.diag := rfl

/-! ### setPc -/

@[simp] theorem State.setPc_x (p : Addr) : (s.setPc p).x = s.x := rfl
@[simp] theorem State.setPc_pc (p : Addr) : (s.setPc p).pc = p := rfl
@[simp] theorem State.setPc_sp (p : Addr) : (s.setPc p).sp = s.sp := rfl
@[simp] theorem State.setPc_fl (p : Addr) : (s.setPc p).fl = s.fl := rfl
@[simp] theorem State.setPc_mem (p : Addr) : (s.setPc p).mem = s.mem := rfl
@[simp] theorem State.setPc_run (p : Addr) : (s.setPc p).run = s.run := rfl
@[simp] theorem State.setPc_fault (p : Addr) : (s.setPc p).fault = s.fault := rfl
@[simp] theorem State.setPc_out (p : Addr) : (s.setPc p).out = s.out := rfl
@[simp] theorem State.setPc_diag (p : Addr) : (s.setPc p).diag = s.diag := rfl

/-! ### advance -/

@[simp] theorem State.advance_x (n : Addr) : (s.advance n).x = s.x := rfl
@[simp] theorem State.advance_pc (n : Addr) : (s.advance n).pc = s.pc + n := rfl
@[simp] theorem State.advance_sp (n : Addr) : (s.advance n).sp = s.sp := rfl
@[simp] theorem State.advance_fl (n : Addr) : (s.advance n).fl = s.fl := rfl
@[simp] theorem State.advance_mem (n : Addr) : (s.advance n).mem = s.mem := rfl
@[simp] theorem State.advance_run (n : Addr) : (s.advance n).run = s.run := rfl
@[simp] theorem State.advance_fault (n : Addr) : (s.advance n).fault = s.fault := rfl
@[simp] theorem State.advance_out (n : Addr) : (s.advance n).out = s.out := rfl
@[simp] theorem State.advance_diag (n : Addr) : (s.advance n).diag = s.diag := rfl

/-! ### setSp -/

@[simp] theorem State.setSp_x (v : Addr) : (s.setSp v).x = s.x := rfl
@[simp] theorem State.setSp_pc (v : Addr) : (s.setSp v).pc = s.pc := rfl
@[simp] theorem State.setSp_sp (v : Addr) : (s.setSp v).sp = v := rfl
@[simp] theorem State.setSp_fl (v : Addr) : (s.setSp v).fl = s.fl := rfl
@[simp] theorem State.setSp_mem (v : Addr) : (s.setSp v).mem = s.mem := rfl
@[simp] theorem State.setSp_run (v : Addr) : (s.setSp v).run = s.run := rfl
@[simp] theorem State.setSp_fault (v : Addr) : (s.setSp v).fault = s.fault := rfl
@[simp] theorem State.setSp_out (v : Addr) : (s.setSp v).out = s.out := rfl
@[simp] theorem State.setSp_diag (v : Addr) : (s.setSp v).diag = s.diag := rfl

/-! ### setFl -/

@[simp] theorem State.setFl_x (v : Byte) : (s.setFl v).x = s.x := rfl
@[simp] theorem State.setFl_pc (v : Byte) : (s.setFl v).pc = s.pc := rfl
@[simp] theorem State.setFl_sp (v : Byte) : (s.setFl v).sp = s.sp := rfl
@[simp] theorem State.setFl_fl (v : Byte) : (s.setFl v).fl = v := rfl
@[simp] theorem State.setFl_mem (v : Byte) : (s.setFl v).mem = s.mem := rfl
@[simp] theorem State.setFl_run (v : Byte) : (s.setFl v).run = s.run := rfl
@[simp] theorem State.setFl_fault (v : Byte) : (s.setFl v).fault = s.fault := rfl
@[simp] theorem State.setFl_out (v : Byte) : (s.setFl v).out = s.out := rfl
@[simp] theorem State.setFl_diag (v : Byte) : (s.setFl v).diag = s.diag := rfl

/-! ### writeMem -/

@[simp] theorem State.writeMem_x (a : Addr) (v : Byte) : (s.writeMem a v).x = s.x := rfl
@[simp] theorem State.writeMem_pc (a : Addr) (v : Byte) : (s.writeMem a v).pc = s.pc := rfl
@[simp] theorem State.writeMem_sp (a : Addr) (v : Byte) : (s.writeMem a v).sp = s.sp := rfl
@[simp] theorem State.writeMem_fl (a : Addr) (v : Byte) : (s.writeMem a v).fl = s.fl := rfl
@[simp] theorem State.writeMem_mem (a : Addr) (v : Byte) : (s.writeMem a v).mem = s.mem.write a v := rfl
@[simp] theorem State.writeMem_run (a : Addr) (v : Byte) : (s.writeMem a v).run = s.run := rfl
@[simp] theorem State.writeMem_fault (a : Addr) (v : Byte) : (s.writeMem a v).fault = s.fault := rfl
@[simp] theorem State.writeMem_out (a : Addr) (v : Byte) : (s.writeMem a v).out = s.out := rfl
@[simp] theorem State.writeMem_diag (a : Addr) (v : Byte) : (s.writeMem a v).diag = s.diag := rfl

/-! ### emit -/

@[simp] theorem State.emit_x (v : Byte) : (s.emit v).x = s.x := rfl
@[simp] theorem State.emit_pc (v : Byte) : (s.emit v).pc = s.pc := rfl
@[simp] theorem State.emit_sp (v : Byte) : (s.emit v).sp = s.sp := rfl
@[simp] theorem State.emit_fl (v : Byte) : (s.emit v).fl = s.fl := rfl
@[simp] theorem State.emit_mem (v : Byte) : (s.emit v).mem = s.mem := rfl
@[simp] theorem State.emit_run (v : Byte) : (s.emit v).run = s.run := rfl
@[simp] theorem State.emit_fault (v : Byte) : (s.emit v).fault = s.fault := rfl
@[simp] theorem State.emit_out (v : Byte) : (s.emit v).out = s.out ++ [v] := rfl
@[simp] theorem State.emit_diag (v : Byte) : (s.emit v).diag = s.diag := rfl

/-! ### report -/

@[simp] theorem State.report_x (p : Addr) (o : Byte) : (s.report p o).x = s.x := rfl
@[simp] theorem State.report_pc (p : Addr) (o : Byte) : (s.report p o).pc = s.pc := rfl
@[simp] theorem State.report_sp (p : Addr) (o : Byte) : (s.report p o).sp = s.sp := rfl
@[simp] theorem State.report_fl (p : Addr) (o : Byte) : (s.report p o).fl = s.fl := rfl
@[simp] theorem State.report_mem (p : Addr) (o : Byte) : (s.report p o).mem = s.mem := rfl
@[simp] theorem State.report_run (p : Addr) (o : Byte) : (s.report p o).run = s.run := rfl
@[simp] theorem State.report_fault (p : Addr) (o : Byte) : (s.report p o).fault = s.fault := rfl
@[simp] theorem State.report_out (p : Addr) (o : Byte) : (s.report p o).out = s.out := rfl
@[simp] theorem State.report_diag (p : Addr) (o : Byte) : (s.report p o).diag = s.diag ++ [⟨p, o⟩] := rfl

/-! ### halt -/

@[simp] theorem State.halt_x : (s.halt).x = s.x := rfl
@[simp] theorem State.halt_pc : (s.halt).pc = s.pc := rfl
@[simp] theorem State.halt_sp : (s.halt).sp = s.sp := rfl
@[simp] theorem State.halt_fl : (s.halt).fl = s.fl := rfl
@[simp] theorem State.halt_mem : (s.halt).mem = s.mem := rfl
@[simp] theorem State.halt_run : (s.halt).run = .halted := rfl
@[simp] theorem State.halt_fault : (s.halt).fault = s.fault := rfl
@[simp] theorem State.halt_out : (s.halt).out = s.out := rfl
@[simp] theorem State.halt_diag : (s.halt).diag = s.diag := rfl

/-! ### pushByte -/

@[simp] theorem State.pushByte_x (v : Byte) : (s.pushByte v).x = s.x := rfl
@[simp] theorem State.pushByte_pc (v : Byte) : (s.pushByte v).pc = s.pc := rfl
@[simp] theorem State.pushByte_sp (v : Byte) : (s.pushByte v).sp = s.sp - 1#8 := rfl
@[simp] theorem State.pushByte_fl (v : Byte) : (s.pushByte v).fl = s.fl := rfl
@[simp] theorem State.pushByte_mem (v : Byte) : (s.pushByte v).mem = s.mem.write (s.sp - 1#8) v := rfl
@[simp] theorem State.pushByte_run (v : Byte) : (s.pushByte v).run = s.run := rfl
@[simp] theorem State.pushByte_fault (v : Byte) : (s.pushByte v).fault = s.fault := rfl
@[simp] theorem State.pushByte_out (v : Byte) : (s.pushByte v).out = s.out := rfl
@[simp] theorem State.pushByte_diag (v : Byte) : (s.pushByte v).diag = s.diag := rfl

/-! ### dropTop -/

@[simp] theorem State.dropTop_x : (s.dropTop).x = s.x := rfl
@[simp] theorem State.dropTop_pc : (s.dropTop).pc = s.pc := rfl
@[simp] theorem State.dropTop_sp : (s.dropTop).sp = s.sp + 1#8 := rfl
@[simp] theorem State.dropTop_fl : (s.dropTop).fl = s.fl := rfl
@[simp] theorem State.dropTop_mem : (s.dropTop).mem = s.mem := rfl
@[simp] theorem State.dropTop_run : (s.dropTop).run = s.run := rfl
@[simp] theorem State.dropTop_fault : (s.dropTop).fault = s.fault := rfl
@[simp] theorem State.dropTop_out : (s.dropTop).out = s.out := rfl
@[simp] theorem State.dropTop_diag : (s.dropTop).diag = s.diag := rfl

/-! ### raiseRegisterIndexFault -/

@[simp] theorem State.raiseRegisterIndexFault_x (op v : Byte) : (s.raiseRegisterIndexFault op v).x = s.x := rfl
@[simp] theorem State.raiseRegisterIndexFault_pc (op v : Byte) : (s.raiseRegisterIndexFault op v).pc = s.pc := rfl
@[simp] theorem State.raiseRegisterIndexFault_sp (op v : Byte) : (s.raiseRegisterIndexFault op v).sp = s.sp := rfl
@[simp] theorem State.raiseRegisterIndexFault_fl (op v : Byte) : (s.raiseRegisterIndexFault op v).fl = s.fl := rfl
@[simp] theorem State.raiseRegisterIndexFault_mem (op v : Byte) : (s.raiseRegisterIndexFault op v).mem = s.mem := rfl
@[simp] theorem State.raiseRegisterIndexFault_run (op v : Byte) : (s.raiseRegisterIndexFault op v).run = .faulted :=
    rfl
@[simp] theorem State.raiseRegisterIndexFault_fault (op v : Byte) : (s.raiseRegisterIndexFault op v).fault = some ⟨.registerIndex, s.pc, op, v⟩ :=
    rfl
@[simp] theorem State.raiseRegisterIndexFault_out (op v : Byte) : (s.raiseRegisterIndexFault op v).out = s.out := rfl
@[simp] theorem State.raiseRegisterIndexFault_diag (op v : Byte) : (s.raiseRegisterIndexFault op v).diag = s.diag :=
    rfl

/-! ### Register and memory reads of an updated state -/

@[simp] theorem State.readReg_writeReg_same (r : RegIndex) (v : Byte) : (s.writeReg r v).readReg r = v := by
  simp [State.readReg, Vector.get_eq_getElem]

theorem State.readReg_writeReg_other (d r : RegIndex) (v : Byte) (h : r ≠ d) :
    (s.writeReg d v).readReg r = s.readReg r := by
  have h' : ¬ d.val = r.val := fun e => h (Fin.ext e.symm)
  simp [State.readReg, Vector.get_eq_getElem, h']

@[simp] theorem State.readReg_setPc (p : Addr) (i : RegIndex) : (s.setPc p).readReg i = s.readReg i := rfl
@[simp] theorem State.readReg_advance (n : Addr) (i : RegIndex) : (s.advance n).readReg i = s.readReg i := rfl
@[simp] theorem State.readReg_setSp (v : Addr) (i : RegIndex) : (s.setSp v).readReg i = s.readReg i := rfl
@[simp] theorem State.readReg_setFl (v : Byte) (i : RegIndex) : (s.setFl v).readReg i = s.readReg i := rfl
@[simp] theorem State.readReg_writeMem (a : Addr) (v : Byte) (i : RegIndex) : (s.writeMem a v).readReg i = s.readReg i := rfl
@[simp] theorem State.readReg_emit (v : Byte) (i : RegIndex) : (s.emit v).readReg i = s.readReg i := rfl
@[simp] theorem State.readReg_report (p : Addr) (o : Byte) (i : RegIndex) : (s.report p o).readReg i = s.readReg i := rfl
@[simp] theorem State.readReg_halt (i : RegIndex) : (s.halt).readReg i = s.readReg i := rfl
@[simp] theorem State.readReg_pushByte (v : Byte) (i : RegIndex) : (s.pushByte v).readReg i = s.readReg i := rfl
@[simp] theorem State.readReg_dropTop (i : RegIndex) : (s.dropTop).readReg i = s.readReg i := rfl
@[simp] theorem State.readReg_raiseRegisterIndexFault (op v : Byte) (i : RegIndex) :
    (s.raiseRegisterIndexFault op v).readReg i = s.readReg i := rfl

@[simp] theorem State.readMem_writeReg (r : RegIndex) (v : Byte) (c : Addr) : (s.writeReg r v).readMem c = s.readMem c := rfl
@[simp] theorem State.readMem_setPc (p : Addr) (c : Addr) : (s.setPc p).readMem c = s.readMem c := rfl
@[simp] theorem State.readMem_advance (n : Addr) (c : Addr) : (s.advance n).readMem c = s.readMem c := rfl
@[simp] theorem State.readMem_setSp (v : Addr) (c : Addr) : (s.setSp v).readMem c = s.readMem c := rfl
@[simp] theorem State.readMem_setFl (v : Byte) (c : Addr) : (s.setFl v).readMem c = s.readMem c := rfl
@[simp] theorem State.readMem_emit (v : Byte) (c : Addr) : (s.emit v).readMem c = s.readMem c := rfl
@[simp] theorem State.readMem_report (p : Addr) (o : Byte) (c : Addr) : (s.report p o).readMem c = s.readMem c := rfl
@[simp] theorem State.readMem_halt (c : Addr) : (s.halt).readMem c = s.readMem c := rfl
@[simp] theorem State.readMem_dropTop (c : Addr) : (s.dropTop).readMem c = s.readMem c := rfl
@[simp] theorem State.readMem_raiseRegisterIndexFault (op v : Byte) (c : Addr) :
    (s.raiseRegisterIndexFault op v).readMem c = s.readMem c := rfl

end Sys2Proof.Machine
end

