-- ==== Sys2Proof/Laws/Memory.lean ====
section
/-! SUPPORT. The laws of memory: a read after a write, every other cell left alone, and the canonical form kept. -/

namespace Sys2Proof.Machine

theorem Memory.read_erase_same (m : Memory) (a : Addr) : (m.erase a).read a = Config.memReset := by
  induction m with
  | nil => rfl
  | cons c m ih =>
    obtain ⟨k, w⟩ := c
    by_cases h : k = a.toNat
    · simpa [Memory.erase, h] using ih
    · simpa [Memory.erase, Memory.read, h] using ih

theorem Memory.read_erase_other (m : Memory) (a c : Addr) (h : c ≠ a) : (m.erase a).read c = m.read c := by
  have h' : a.toNat ≠ c.toNat := fun e => h (BitVec.eq_of_toNat_eq e.symm)
  induction m with
  | nil => rfl
  | cons e m ih =>
    obtain ⟨k, w⟩ := e
    by_cases hk : k = a.toNat
    · subst hk
      simpa [Memory.erase, Memory.read, h'] using ih
    · by_cases hc : k = c.toNat <;> simp_all [Memory.erase, Memory.read]

theorem Memory.read_insert_same (m : Memory) (a : Addr) (v : Byte) : (m.insert a v).read a = v := by
  induction m with
  | nil => simp [Memory.insert, Memory.read]
  | cons e m ih =>
    obtain ⟨k, w⟩ := e
    unfold Memory.insert
    split
    · simp [Memory.read]
    · split
      · simp [Memory.read]
      · next h => simp [Memory.read, ih, Ne.symm h]

theorem Memory.read_insert_other (m : Memory) (a c : Addr) (v : Byte) (h : c ≠ a) :
    (m.insert a v).read c = m.read c := by
  have h' : a.toNat ≠ c.toNat := fun e => h (BitVec.eq_of_toNat_eq e.symm)
  induction m with
  | nil => simp [Memory.insert, Memory.read, h']
  | cons e m ih =>
    obtain ⟨k, w⟩ := e
    unfold Memory.insert
    split
    · simp [Memory.read, h']
    · split
      · next hk => simp [Memory.read, h', ← hk]
      · simp [Memory.read, ih]

/-- A cell holds what was last written to it (R58, R62). -/
@[simp] theorem Memory.read_write_same (m : Memory) (a : Addr) (v : Byte) : (m.write a v).read a = v := by
  unfold Memory.write
  split
  · next h => rw [Memory.read_erase_same, h]
  · exact Memory.read_insert_same m a v

/-- A write changes only the addressed cell (R58). -/
theorem Memory.read_write_other (m : Memory) (a c : Addr) (v : Byte) (h : c ≠ a) : (m.write a v).read c = m.read c := by
  unfold Memory.write
  split
  · exact Memory.read_erase_other m a c h
  · exact Memory.read_insert_other m a c v h

/-- The canonical form from a higher address on is the canonical form from a lower one on. -/
theorem Memory.wfFrom_mono {lo lo' : Nat} (h : lo' ≤ lo) {m : Memory} (hm : Memory.wfFrom lo m = true) :
    Memory.wfFrom lo' m = true := by
  cases m with
  | nil => rfl
  | cons c m =>
    simp only [Memory.wfFrom, Bool.and_eq_true, decide_eq_true_eq] at hm ⊢
    exact ⟨⟨⟨by omega, hm.1.1.2⟩, hm.1.2⟩, hm.2⟩

theorem Memory.wfFrom_erase {m : Memory} (a : Addr) {lo : Nat} (hm : Memory.wfFrom lo m = true) :
    Memory.wfFrom lo (m.erase a) = true := by
  induction m generalizing lo with
  | nil => exact hm
  | cons c m ih =>
    obtain ⟨k, w⟩ := c
    simp only [Memory.wfFrom, Bool.and_eq_true, decide_eq_true_eq] at hm
    by_cases hk : k = a.toNat
    · have := Memory.wfFrom_mono (by omega : lo ≤ k + 1) (ih hm.2)
      simpa [Memory.erase, hk] using this
    · have := ih hm.2
      simp only [Memory.erase] at this ⊢
      simp only [ne_eq, hk, not_false_eq_true, decide_true, List.filter_cons_of_pos, Memory.wfFrom, Bool.and_eq_true,
        decide_eq_true_eq]
      exact ⟨hm.1, this⟩

theorem Memory.wfFrom_insert {m : Memory} (a : Addr) (v : Byte) (hv : v ≠ Config.memReset) {lo : Nat}
    (hlo : lo ≤ a.toNat) (hm : Memory.wfFrom lo m = true) : Memory.wfFrom lo (m.insert a v) = true := by
  have ha : a.toNat < 256 := a.isLt
  induction m generalizing lo with
  | nil =>
    simp only [Memory.insert, Memory.wfFrom, Bool.and_eq_true, decide_eq_true_eq]
    exact ⟨⟨⟨hlo, ha⟩, hv⟩, trivial⟩
  | cons c m ih =>
    obtain ⟨k, w⟩ := c
    simp only [Memory.wfFrom, Bool.and_eq_true, decide_eq_true_eq] at hm
    unfold Memory.insert
    split
    · simp only [Memory.wfFrom, Bool.and_eq_true, decide_eq_true_eq]
      exact ⟨⟨⟨hlo, ha⟩, hv⟩, ⟨⟨by omega, hm.1.1.2⟩, hm.1.2⟩, hm.2⟩
    · split
      · next hk =>
        simp only [Memory.wfFrom, Bool.and_eq_true, decide_eq_true_eq]
        exact ⟨⟨⟨hlo, ha⟩, hv⟩, hk ▸ hm.2⟩
      · simp only [Memory.wfFrom, Bool.and_eq_true, decide_eq_true_eq]
        exact ⟨hm.1, ih (by omega) hm.2⟩

/-- Every write keeps the canonical form. -/
theorem Memory.wf_write {m : Memory} (a : Addr) (v : Byte) (hm : m.wf = true) : (m.write a v).wf = true := by
  unfold Memory.wf Memory.write at *
  split
  · exact Memory.wfFrom_erase a hm
  · next h => exact Memory.wfFrom_insert a v h (Nat.zero_le _) hm

/-! ### The same at the level of State -/

@[simp] theorem State.readMem_writeMem_same (s : State) (a : Addr) (v : Byte) : (s.writeMem a v).readMem a = v :=
  Memory.read_write_same s.mem a v

theorem State.readMem_writeMem_other (s : State) (a c : Addr) (v : Byte) (h : c ≠ a) :
    (s.writeMem a v).readMem c = s.readMem c :=
  Memory.read_write_other s.mem a c v h

@[simp] theorem State.readMem_pushByte_same (s : State) (v : Byte) : (s.pushByte v).readMem (s.sp - 1#8) = v :=
  Memory.read_write_same s.mem (s.sp - 1#8) v

theorem State.readMem_pushByte_other (s : State) (c : Addr) (v : Byte) (h : c ≠ s.sp - 1#8) :
    (s.pushByte v).readMem c = s.readMem c :=
  Memory.read_write_other s.mem (s.sp - 1#8) c v h

@[simp] theorem State.fetch_op (s : State) : s.fetch.op = s.readMem s.pc := rfl
@[simp] theorem State.fetch_a (s : State) : s.fetch.a = s.readMem (s.pc + 1#8) := rfl
@[simp] theorem State.fetch_b (s : State) : s.fetch.b = s.readMem (s.pc + 2#8) := rfl

end Sys2Proof.Machine
end

