-- ==== Sys2Proof/Laws/Operands.lean ====
section
/-! SUPPORT. What the operand forms, the flag computation and the ALU can do, said once each. -/

namespace Sys2Proof.Machine

/-! ### Operand forms -/

theorem regidx_of_lt {v : Byte} (h : v.toNat < 8) : regidx v = some ⟨v.toNat, h⟩ := by simp [regidx, h]

theorem regidx_of_ge {v : Byte} (h : 8 ≤ v.toNat) : regidx v = none := by simp [regidx, Nat.not_lt.mpr h]

theorem withReg_of_lt {op a : Byte} {s : State} {effect : RegIndex → State} (h : a.toNat < 8) :
    withReg op a s effect = .next (effect ⟨a.toNat, h⟩) := by simp [withReg, regidx_of_lt h]

theorem withReg_of_ge {op a : Byte} {s : State} {effect : RegIndex → State} (h : 8 ≤ a.toNat) :
    withReg op a s effect = .next (s.raiseRegisterIndexFault op a) := by simp [withReg, regidx_of_ge h]

/-- All that a one-register instruction can do: its effect on a register that exists, or the fault on one that does not. -/
theorem withReg_cases (op a : Byte) (s : State) (effect : RegIndex → State) :
    (∃ h : a.toNat < 8, withReg op a s effect = .next (effect ⟨a.toNat, h⟩)) ∨
      (8 ≤ a.toNat ∧ withReg op a s effect = .next (s.raiseRegisterIndexFault op a)) := by
  by_cases h : a.toNat < 8
  · exact .inl ⟨h, withReg_of_lt h⟩
  · exact .inr ⟨Nat.le_of_not_lt h, withReg_of_ge (Nat.le_of_not_lt h)⟩

theorem withRegs_of_lt {op a b : Byte} {s : State} {effect : RegIndex → RegIndex → State} (ha : a.toNat < 8)
    (hb : b.toNat < 8) : withRegs op a b s effect = .next (effect ⟨a.toNat, ha⟩ ⟨b.toNat, hb⟩) := by
  simp [withRegs, regidx_of_lt ha, regidx_of_lt hb]

theorem withRegs_of_first_ge {op a b : Byte} {s : State} {effect : RegIndex → RegIndex → State} (ha : 8 ≤ a.toNat) :
    withRegs op a b s effect = .next (s.raiseRegisterIndexFault op a) := by simp [withRegs, regidx_of_ge ha]

theorem withRegs_of_second_ge {op a b : Byte} {s : State} {effect : RegIndex → RegIndex → State} (ha : a.toNat < 8)
    (hb : 8 ≤ b.toNat) : withRegs op a b s effect = .next (s.raiseRegisterIndexFault op b) := by
  simp [withRegs, regidx_of_lt ha, regidx_of_ge hb]

/-- All that a two-register instruction can do: its effect, the fault on `a`, or (with `a` good) the fault on `b`. -/
theorem withRegs_cases (op a b : Byte) (s : State) (effect : RegIndex → RegIndex → State) :
    (∃ (ha : a.toNat < 8) (hb : b.toNat < 8), withRegs op a b s effect = .next (effect ⟨a.toNat, ha⟩ ⟨b.toNat, hb⟩)) ∨
      (8 ≤ a.toNat ∧ withRegs op a b s effect = .next (s.raiseRegisterIndexFault op a)) ∨
      (a.toNat < 8 ∧ 8 ≤ b.toNat ∧ withRegs op a b s effect = .next (s.raiseRegisterIndexFault op b)) := by
  by_cases ha : a.toNat < 8
  · by_cases hb : b.toNat < 8
    · exact .inl ⟨ha, hb, withRegs_of_lt ha hb⟩
    · exact .inr (.inr ⟨ha, Nat.le_of_not_lt hb, withRegs_of_second_ge ha (Nat.le_of_not_lt hb)⟩)
  · exact .inr (.inl ⟨Nat.le_of_not_lt ha, withRegs_of_first_ge (Nat.le_of_not_lt ha)⟩)

/-! ### Flags and the ALU -/

/-- The flag byte COMPARE writes is E, G or L, each exactly when the unsigned order says so (R160). -/
theorem compareFlags_cases (p q : Byte) :
    (p.toNat = q.toNat ∧ compareFlags p q = flagsEqual) ∨ (p.toNat > q.toNat ∧ compareFlags p q = flagsGreater) ∨
      (p.toNat < q.toNat ∧ compareFlags p q = flagsLess) := by
  by_cases h : p = q
  · exact .inl ⟨by rw [h], by simp [compareFlags, h]⟩
  · have h' : p.toNat ≠ q.toNat := fun e => h (BitVec.eq_of_toNat_eq e)
    by_cases g : p.toNat > q.toNat
    · exact .inr (.inl ⟨g, by simp [compareFlags, h, g]⟩)
    · exact .inr (.inr ⟨by omega, by simp only [compareFlags, h, g, if_false]⟩)

/-- The E bit is the parity of `fl` (R31, R33). -/
theorem State.equalBit_eq (s : State) : s.equalBit = decide (s.fl.toNat % 2 = 1) := by
  simp [State.equalBit, BitVec.getLsbD, Nat.testBit_zero]

@[simp] theorem alu_add_toNat (p q : Byte) : (alu .add p q).toNat = (p.toNat + q.toNat) % 256 := by simp [alu]

@[simp] theorem alu_multiply_toNat (p q : Byte) : (alu .multiply p q).toNat = (p.toNat * q.toNat) % 256 := by simp [alu]

end Sys2Proof.Machine
end

