-- ==== Sys2Proof/Laws/PerInstr.lean ====
section
/-! SUPPORT. Statements about every instruction as syntax, one lemma per constructor. -/

namespace Sys2Proof.Laws.EncodingShape

open Sys2Proof

/-- An instruction's bytes are its opcode and then its operand bytes, its register operands come first among these, its
length is 1, 2 or 3 (R70), and that length is one more than the number in bits 7..6 of the opcode (R77). -/
def Statement (i : Instr) : Prop :=
  (encode i).head? = some i.opcode ∧ i.registerOperands <+: i.operandBytes ∧
    (encode i).length = i.length ∧ 1 ≤ i.length ∧ i.length ≤ 3 ∧ i.length = 1 + i.opcode.toNat / 64

/-- The shape follows from what the bytes are: the rest after the register operands, and the length that the opcode's bits 7..6 say. -/
theorem of_bytes {i : Instr} {rest : List Byte} {n : Nat} (hr : i.registerOperands ++ rest = i.operandBytes)
    (hn : i.operandBytes.length = n) (h2 : n ≤ 2) {op : Byte} (hop : i.opcode = op) (ho : n = op.toNat / 64) : Statement i :=
  ⟨rfl, ⟨rest, hr⟩, Nat.add_comm _ _, Nat.le_add_right _ _, by unfold Instr.length; omega,
    by unfold Instr.length; rw [hop]; omega⟩

theorem halt : Statement .halt :=
  of_bytes (rest := []) (n := 0) rfl rfl (by decide) (op := opHalt) rfl (by decide)

theorem loadImmediate (a imm : Byte) : Statement (.loadImmediate a imm) :=
  of_bytes (rest := [imm]) (n := 2) rfl rfl (by decide) (op := opLoadImmediate) rfl (by decide)

theorem printRegister (a : Byte) : Statement (.printRegister a) :=
  of_bytes (rest := []) (n := 1) rfl rfl (by decide) (op := opPrintRegister) rfl (by decide)

theorem multiply (a b : Byte) : Statement (.multiply a b) :=
  of_bytes (rest := []) (n := 2) rfl rfl (by decide) (op := opMultiply) rfl (by decide)

theorem push (a : Byte) : Statement (.push a) :=
  of_bytes (rest := []) (n := 1) rfl rfl (by decide) (op := opPush) rfl (by decide)

theorem pop (a : Byte) : Statement (.pop a) :=
  of_bytes (rest := []) (n := 1) rfl rfl (by decide) (op := opPop) rfl (by decide)

theorem call (a : Byte) : Statement (.call a) :=
  of_bytes (rest := []) (n := 1) rfl rfl (by decide) (op := opCall) rfl (by decide)

theorem ret : Statement .ret :=
  of_bytes (rest := []) (n := 0) rfl rfl (by decide) (op := opRet) rfl (by decide)

theorem add (a b : Byte) : Statement (.add a b) :=
  of_bytes (rest := []) (n := 2) rfl rfl (by decide) (op := opAdd) rfl (by decide)

theorem compare (a b : Byte) : Statement (.compare a b) :=
  of_bytes (rest := []) (n := 2) rfl rfl (by decide) (op := opCompare) rfl (by decide)

theorem jump (a : Byte) : Statement (.jump a) :=
  of_bytes (rest := []) (n := 1) rfl rfl (by decide) (op := opJump) rfl (by decide)

theorem jumpIfEqual (a : Byte) : Statement (.jumpIfEqual a) :=
  of_bytes (rest := []) (n := 1) rfl rfl (by decide) (op := opJumpIfEqual) rfl (by decide)

theorem jumpIfNotEqual (a : Byte) : Statement (.jumpIfNotEqual a) :=
  of_bytes (rest := []) (n := 1) rfl rfl (by decide) (op := opJumpIfNotEqual) rfl (by decide)

end Sys2Proof.Laws.EncodingShape
end

