-- ==== Sys2Proof/Laws/Step.lean ====
section
/-! SUPPORT. All that a step can do, said once: proofs about steps cite `step_effect` and do not unfold `step`, `exec` or `decode`. -/

namespace Sys2Proof.Machine

theorem step_of_running {s : State} (h : s.run = .running) : step s = execFetched s.fetch s := by simp [step, h]

/-- In Halted and Faulted a step changes nothing (R100). -/
theorem step_of_not_running {s t : State} (h : s.run ≠ .running) (hs : step s = .next t) : t = s := by
  cases hr : s.run <;> simp_all [step]

/-- What follows from a one-register instruction's next state: `P` holds of it if it holds of the effect and of the fault. -/
theorem withReg_elim {P : State → Prop} {op a : Byte} {s t : State} {effect : RegIndex → State}
    (h : withReg op a s effect = .next t) (good : ∀ ha : a.toNat < 8, P (effect ⟨a.toNat, ha⟩))
    (bad : 8 ≤ a.toNat → P (s.raiseRegisterIndexFault op a)) : P t := by
  rcases withReg_cases op a s effect with ⟨ha, e⟩ | ⟨ha, e⟩
  · rw [e] at h; injection h with h; exact h ▸ good ha
  · rw [e] at h; injection h with h; exact h ▸ bad ha

/-- What follows from a two-register instruction's next state. -/
theorem withRegs_elim {P : State → Prop} {op a b : Byte} {s t : State} {effect : RegIndex → RegIndex → State}
    (h : withRegs op a b s effect = .next t)
    (good : ∀ (ha : a.toNat < 8) (hb : b.toNat < 8), P (effect ⟨a.toNat, ha⟩ ⟨b.toNat, hb⟩))
    (badFirst : 8 ≤ a.toNat → P (s.raiseRegisterIndexFault op a))
    (badSecond : 8 ≤ b.toNat → P (s.raiseRegisterIndexFault op b)) : P t := by
  rcases withRegs_cases op a b s effect with ⟨ha, hb, e⟩ | ⟨ha, e⟩ | ⟨_, hb, e⟩
  · rw [e] at h; injection h with h; exact h ▸ good ha hb
  · rw [e] at h; injection h with h; exact h ▸ badFirst ha
  · rw [e] at h; injection h with h; exact h ▸ badSecond hb

/-- The states a running engine can step to: one case per row of the table of R102, and the fault of R173. -/
inductive StepEffect (s : State) : State → Prop where
  | halt : s.fetch.op = opHalt → StepEffect s s.halt
  | loadImmediate (ha : s.fetch.a.toNat < 8) : s.fetch.op = opLoadImmediate →
      StepEffect s ((s.writeReg ⟨_, ha⟩ s.fetch.b).advance 3)
  | printRegister (ha : s.fetch.a.toNat < 8) : s.fetch.op = opPrintRegister →
      StepEffect s ((s.emit (s.readReg ⟨_, ha⟩)).advance 2)
  | multiply (ha : s.fetch.a.toNat < 8) (hb : s.fetch.b.toNat < 8) : s.fetch.op = opMultiply →
      StepEffect s (aluEffect .multiply s ⟨_, ha⟩ ⟨_, hb⟩)
  | push (ha : s.fetch.a.toNat < 8) : s.fetch.op = opPush → StepEffect s ((s.pushByte (s.readReg ⟨_, ha⟩)).advance 2)
  | pop (ha : s.fetch.a.toNat < 8) : s.fetch.op = opPop →
      StepEffect s (((s.writeReg ⟨_, ha⟩ (s.readMem s.sp)).dropTop).advance 2)
  | call (ha : s.fetch.a.toNat < 8) : s.fetch.op = opCall →
      StepEffect s ((s.pushByte s.returnAddress).setPc (s.readReg ⟨_, ha⟩))
  | ret : s.fetch.op = opRet → StepEffect s (s.dropTop.setPc (s.readMem s.sp))
  | add (ha : s.fetch.a.toNat < 8) (hb : s.fetch.b.toNat < 8) : s.fetch.op = opAdd →
      StepEffect s (aluEffect .add s ⟨_, ha⟩ ⟨_, hb⟩)
  | compare (ha : s.fetch.a.toNat < 8) (hb : s.fetch.b.toNat < 8) : s.fetch.op = opCompare →
      StepEffect s ((s.setFl (compareFlags (s.readReg ⟨_, ha⟩) (s.readReg ⟨_, hb⟩))).advance 3)
  | jump (ha : s.fetch.a.toNat < 8) : s.fetch.op = opJump → StepEffect s (s.setPc (s.readReg ⟨_, ha⟩))
  | jumpIfEqual (ha : s.fetch.a.toNat < 8) : s.fetch.op = opJumpIfEqual →
      StepEffect s (branchEffect s.equalBit s ⟨_, ha⟩)
  | jumpIfNotEqual (ha : s.fetch.a.toNat < 8) : s.fetch.op = opJumpIfNotEqual →
      StepEffect s (branchEffect (!s.equalBit) s ⟨_, ha⟩)
  | unrecognized : decode s.fetch = .unrecognizedOpcode s.fetch.op → StepEffect s ((s.report s.pc s.fetch.op).advance 1)
  | fault (i : Instr) (v : Byte) : decode s.fetch = .instruction i → i.opcode = s.fetch.op → v ∈ i.registerOperands →
      (v = s.fetch.a ∨ v = s.fetch.b) → 8 ≤ v.toNat → StepEffect s (s.raiseRegisterIndexFault s.fetch.op v)

/-- Every next state of a running engine is one of `StepEffect`. -/
theorem step_effect {s t : State} (hr : s.run = .running) (h : step s = .next t) : StepEffect s t := by
  rw [step_of_running hr, execFetched] at h
  have fault (i : Instr) (v : Byte) (hd : decode s.fetch = .instruction i) (ho : s.fetch.op = i.opcode)
      (hm : v ∈ i.registerOperands) (hv : v = s.fetch.a ∨ v = s.fetch.b) (h8 : 8 ≤ v.toNat) :
      StepEffect s (s.raiseRegisterIndexFault i.opcode v) := ho ▸ .fault i v hd ho.symm hm hv h8
  by_cases h1 : s.fetch.op = opHalt
  · have hd := decode_opHalt h1
    rw [hd] at h
    injection h with h; exact h ▸ .halt h1
  by_cases h2 : s.fetch.op = opLoadImmediate
  · have hd := decode_opLoadImmediate h2
    rw [hd] at h
    exact withReg_elim h (fun ha => .loadImmediate ha h2) (fault _ _ hd h2 (.head _) (.inl rfl))
  by_cases h3 : s.fetch.op = opPrintRegister
  · have hd := decode_opPrintRegister h3
    rw [hd] at h
    exact withReg_elim h (fun ha => .printRegister ha h3) (fault _ _ hd h3 (.head _) (.inl rfl))
  by_cases h4 : s.fetch.op = opMultiply
  · have hd := decode_opMultiply h4
    rw [hd] at h
    exact withRegs_elim h (fun ha hb => .multiply ha hb h4) (fault _ _ hd h4 (.head _) (.inl rfl))
      (fault _ _ hd h4 (.tail _ (.head _)) (.inr rfl))
  by_cases h5 : s.fetch.op = opPush
  · have hd := decode_opPush h5
    rw [hd] at h
    exact withReg_elim h (fun ha => .push ha h5) (fault _ _ hd h5 (.head _) (.inl rfl))
  by_cases h6 : s.fetch.op = opPop
  · have hd := decode_opPop h6
    rw [hd] at h
    exact withReg_elim h (fun ha => .pop ha h6) (fault _ _ hd h6 (.head _) (.inl rfl))
  by_cases h7 : s.fetch.op = opCall
  · have hd := decode_opCall h7
    rw [hd] at h
    exact withReg_elim h (fun ha => .call ha h7) (fault _ _ hd h7 (.head _) (.inl rfl))
  by_cases h8 : s.fetch.op = opRet
  · have hd := decode_opRet h8
    rw [hd] at h
    injection h with h; exact h ▸ .ret h8
  by_cases h9 : s.fetch.op = opAdd
  · have hd := decode_opAdd h9
    rw [hd] at h
    exact withRegs_elim h (fun ha hb => .add ha hb h9) (fault _ _ hd h9 (.head _) (.inl rfl))
      (fault _ _ hd h9 (.tail _ (.head _)) (.inr rfl))
  by_cases h10 : s.fetch.op = opCompare
  · have hd := decode_opCompare h10
    rw [hd] at h
    exact withRegs_elim h (fun ha hb => .compare ha hb h10) (fault _ _ hd h10 (.head _) (.inl rfl))
      (fault _ _ hd h10 (.tail _ (.head _)) (.inr rfl))
  by_cases h11 : s.fetch.op = opJump
  · have hd := decode_opJump h11
    rw [hd] at h
    exact withReg_elim h (fun ha => .jump ha h11) (fault _ _ hd h11 (.head _) (.inl rfl))
  by_cases h12 : s.fetch.op = opJumpIfEqual
  · have hd := decode_opJumpIfEqual h12
    rw [hd] at h
    exact withReg_elim h (fun ha => .jumpIfEqual ha h12) (fault _ _ hd h12 (.head _) (.inl rfl))
  by_cases h13 : s.fetch.op = opJumpIfNotEqual
  · have hd := decode_opJumpIfNotEqual h13
    rw [hd] at h
    exact withReg_elim h (fun ha => .jumpIfNotEqual ha h13) (fault _ _ hd h13 (.head _) (.inl rfl))
  have hd := decode_unrecognized h1 h2 h3 h4 h5 h6 h7 h8 h9 h10 h11 h12 h13
  rw [hd] at h
  injection h with h; exact h ▸ .unrecognized hd

/-! ### The two branches leave everything but `pc` alone -/

variable (k : Bool) (s : State) (r : RegIndex)

@[simp] theorem branchEffect_x : (branchEffect k s r).x = s.x := by cases k <;> rfl
@[simp] theorem branchEffect_sp : (branchEffect k s r).sp = s.sp := by cases k <;> rfl
@[simp] theorem branchEffect_fl : (branchEffect k s r).fl = s.fl := by cases k <;> rfl
@[simp] theorem branchEffect_mem : (branchEffect k s r).mem = s.mem := by cases k <;> rfl
@[simp] theorem branchEffect_run : (branchEffect k s r).run = s.run := by cases k <;> rfl
@[simp] theorem branchEffect_fault : (branchEffect k s r).fault = s.fault := by cases k <;> rfl
@[simp] theorem branchEffect_out : (branchEffect k s r).out = s.out := by cases k <;> rfl
@[simp] theorem branchEffect_diag : (branchEffect k s r).diag = s.diag := by cases k <;> rfl
@[simp] theorem branchEffect_readReg (i : RegIndex) : (branchEffect k s r).readReg i = s.readReg i := by cases k <;> rfl
@[simp] theorem branchEffect_readMem (c : Addr) : (branchEffect k s r).readMem c = s.readMem c := by cases k <;> rfl

/-- `pc` after a branch: the target if taken, else past the two bytes (R161, R162). -/
theorem branchEffect_pc : (branchEffect k s r).pc = if k then s.readReg r else s.pc + 2 := by cases k <;> rfl

/-! ### The spec's rules on a CALL to itself (notes/assumptions/27.md) -/

/-- The rules of the spec that define one step decide the point of log entry 27, whatever function the step is: if it meets CALL's
pseudocode (R150), with the bytes fetched as R101 says, and the fault of R172 and R173, then a CALL to itself whose next push falls
on its operand byte, with a return address of 8 or more, is Faulted two steps later. -/
theorem call_to_itself_faults_of_rules {f : State → State}
    (call : ∀ (s : State) (ha : s.fetch.a.toNat < 8), s.run = .running → s.fetch.op = opCall →
      f s = (s.pushByte s.returnAddress).setPc (s.readReg ⟨s.fetch.a.toNat, ha⟩))
    (fault : ∀ s : State, s.run = .running → s.fetch.op = opCall → 8 ≤ s.fetch.a.toNat →
      f s = s.raiseRegisterIndexFault opCall s.fetch.a)
    {s : State} (ha : s.fetch.a.toNat < 8) (hr : s.run = .running) (ho : s.fetch.op = opCall)
    (hself : s.readReg ⟨s.fetch.a.toNat, ha⟩ = s.pc) (hsp : s.sp = s.pc + 2) (h8 : 8 ≤ s.returnAddress.toNat) :
    (f (f s)).run = .faulted := by
  have hpush : s.sp - 1 = s.pc + 1 := by rw [hsp]; bv_omega
  rw [call s ha hr ho, hself]
  have hop : ((s.pushByte s.returnAddress).setPc s.pc).fetch.op = opCall :=
    (State.readMem_pushByte_other s s.pc _ (by bv_omega)).trans ho
  have hopnd : ((s.pushByte s.returnAddress).setPc s.pc).fetch.a = s.returnAddress :=
    (congrArg (s.pushByte s.returnAddress).readMem hpush.symm).trans (State.readMem_pushByte_same s _)
  exact congrArg State.run (fault ((s.pushByte s.returnAddress).setPc s.pc) hr hop (h8.trans_eq (congrArg BitVec.toNat hopnd.symm)))

end Sys2Proof.Machine
end

