-- ==== Sys2Proof/Tests/Slice0.lean ====
section
/-! SUPPORT. The model's own tests. Expected results come from the spec: the encodings of 30_encoding.md R78 and R81, the vectors
T1 to T80, examples and programs of 95_test_vectors.md, and the rules' own examples; each theorem names its source. -/

namespace Sys2Proof.Tests

open Sys2Proof
open Sys2Proof.Machine

/-! ### Helpers -/

/-- The next state, if there is one. -/
def next? (o : Host.Outcome State Fault Refusal) : Option State :=
  match o with
  | .next t => some t
  | .fault _ => none
  | .refused _ => none

/-- The reset state with `pc` and the bytes at `pc` (wrapping past 255). -/
def start (pc : Addr) (bytes : List Byte) : State :=
  { State.reset with pc := pc, mem := Memory.writeFrom [] pc.toNat bytes }

/-- What one step leaves, seen through `f`. -/
def after {α : Type} (s : State) (f : State → α) : Option α := (next? (step s)).map f

/-! ### Well-formedness: an ill-formed term for each check -/

theorem test_wf_loadImmediate : (Instr.loadImmediate 8 0).wellFormed = false := by decide
theorem test_wf_printRegister : (Instr.printRegister 255).wellFormed = false := by decide
theorem test_wf_multiply_first : (Instr.multiply 8 0).wellFormed = false := by decide
theorem test_wf_multiply_second : (Instr.multiply 0 255).wellFormed = false := by decide
theorem test_wf_push : (Instr.push 8).wellFormed = false := by decide
theorem test_wf_pop : (Instr.pop 8).wellFormed = false := by decide
theorem test_wf_call : (Instr.call 8).wellFormed = false := by decide
theorem test_wf_add_first : (Instr.add 9 0).wellFormed = false := by decide
theorem test_wf_add_second : (Instr.add 0 8).wellFormed = false := by decide
theorem test_wf_compare_first : (Instr.compare 8 0).wellFormed = false := by decide
theorem test_wf_compare_second : (Instr.compare 0 8).wellFormed = false := by decide
theorem test_wf_jump : (Instr.jump 8).wellFormed = false := by decide
theorem test_wf_jumpIfEqual : (Instr.jumpIfEqual 8).wellFormed = false := by decide
theorem test_wf_jumpIfNotEqual : (Instr.jumpIfNotEqual 9).wellFormed = false := by decide
theorem test_wf_good : (Instr.add 0 7).wellFormed = true ∧ (Instr.loadImmediate 7 255).wellFormed = true ∧
    Instr.halt.wellFormed = true := by decide

/-! ### Decoding: every constructor, from the binary encodings of R78 and each rule's Encoding line -/

theorem test_decode_halt : decode (.ofBytes [0b00000001, 0xFF, 0xFF]) = .instruction .halt := by decide
theorem test_decode_loadImmediate :
    decode (.ofBytes [0b10000010, 0b00000111, 0b11111111]) = .instruction (.loadImmediate 7 255) := by decide
theorem test_decode_printRegister : decode (.ofBytes [0b01000111, 0b00000101]) = .instruction (.printRegister 5) := by decide
theorem test_decode_multiply :
    decode (.ofBytes [0b10100010, 0b00000011, 0b00000100]) = .instruction (.multiply 3 4) := by decide
theorem test_decode_push : decode (.ofBytes [0b01000101, 0b00000010]) = .instruction (.push 2) := by decide
theorem test_decode_pop : decode (.ofBytes [0b01000110, 0b00000100]) = .instruction (.pop 4) := by decide
theorem test_decode_call : decode (.ofBytes [0b01010000, 0b00000001]) = .instruction (.call 1) := by decide
theorem test_decode_ret : decode (.ofBytes [0b00010001, 0x12, 0x34]) = .instruction .ret := by decide
theorem test_decode_add : decode (.ofBytes [0b10100000, 0b00000110, 0b00000001]) = .instruction (.add 6 1) := by decide
theorem test_decode_compare : decode (.ofBytes [0b10100111, 0b00000000, 0b00000001]) = .instruction (.compare 0 1) := by decide
theorem test_decode_jump : decode (.ofBytes [0b01010100, 0b00000011]) = .instruction (.jump 3) := by decide
theorem test_decode_jumpIfEqual : decode (.ofBytes [0b01010101, 0b00000010]) = .instruction (.jumpIfEqual 2) := by decide
theorem test_decode_jumpIfNotEqual : decode (.ofBytes [0b01010110, 0b00000010]) = .instruction (.jumpIfNotEqual 2) := by decide
/-- R77, R79: 0xA1 (SUB in LS-8) is unrecognized, and so is 0x00. -/
theorem test_decode_unrecognized : decode (.ofBytes [0b10100001, 0, 1]) = .unrecognizedOpcode 0xA1 ∧
    decode (.ofBytes [0]) = .unrecognizedOpcode 0 := by decide
/-- An operand byte of 8 or more is kept whole (R72). -/
theorem test_decode_keeps_bad_operand : decode (.ofBytes [0xA0, 9, 0xC8]) = .instruction (.add 9 0xC8) := by decide
/-- R81: `ADD r6,r1` is A0 06 01; `CALL r1` is 50 01. -/
theorem test_encode : encode (.add 6 1) = [0xA0, 6, 1] ∧ encode (.call 1) = [0x50, 1] ∧ encode .ret = [0x11] := by decide
/-- The host's words: a one-byte table word has operand bytes of zero; a three-byte one has them all. -/
theorem test_decodeTableWord : decodeTableWord 8 0xA2 = some (.multiply 0 0) ∧
    decodeTableWord 24 0x0100A0 = some (.add 0 1) ∧ decodeTableWord 8 0xA1 = none := by decide

/-! ### Reset and the interface -/

/-- R190. -/
theorem test_reset : State.reset.pc = 0 ∧ State.reset.sp = 244 ∧ State.reset.fl = 0 ∧ State.reset.readReg 7 = 0 ∧
    State.reset.readMem 0xF4 = 0 := by decide
theorem test_withFetchWord : (next? (step (State.reset.withFetchWord 24 0x080082))).map (fun t => (t.readReg 0, t.pc)) = some (8, 3) := by
  decide

/-! ### Arithmetic -/

/-- T1. -/
theorem test_add : after ((start 0 [0xA0, 0, 1]).writeReg 0 7 |>.writeReg 1 5) (fun t => (t.readReg 0, t.pc, t.fl)) = some (12, 3, 0) := by
  decide
/-- T8: the fetch ends at 255 and the next pc wraps. T4: one register as both sources, 128 + 128. -/
theorem test_add_wraps : after ((start 253 [0xA0, 3, 3]).writeReg 3 128) (fun t => (t.readReg 3, t.pc)) = some (0, 0) := by decide
/-- T14: 3 × 86 = 258, and `fl` is preserved. -/
theorem test_multiply :
    after ((((start 0 [0xA2, 0, 1]).writeReg 0 3).writeReg 1 86).setFl 4) (fun t => (t.readReg 0, t.pc, t.fl)) = some (2, 3, 4) := by
  decide
/-- T15: the second operand is out of range. -/
theorem test_multiply_fault : after (start 0 [0xA2, 0, 0xFF]) (fun t => (t.run, t.fault, t.pc)) =
    some (.faulted, some ⟨.registerIndex, 0, 0xA2, 255⟩, 0) := by decide
/-- T7: both operands are out of range and the first is recorded. -/
theorem test_fault_order : after ((start 0 [0xA0, 9, 0xC8]).writeReg 0 1) (fun t => (t.run, t.fault, t.readReg 0)) =
    some (.faulted, some ⟨.registerIndex, 0, 0xA0, 9⟩, 1) := by decide

/-- R170: the code of each condition. -/
theorem test_condition_codes : FaultKind.registerIndex.code = 2 ∧ (DiagEvent.mk 0 0).code = 1 := by decide

/-! ### Data movement -/

/-- T23: the literal is fetched from address 0. -/
theorem test_loadImmediate_wraps : after (start 254 [0x82, 1, 0x2A]) (fun t => (t.readReg 1, t.pc)) = some (0x2A, 1) := by decide
/-- T22. -/
theorem test_loadImmediate_fault : after (start 0 [0x82, 8, 1]) (fun t => (t.run, t.fault, t.x)) =
    some (.faulted, some ⟨.registerIndex, 0, 0x82, 8⟩, State.reset.x) := by decide
/-- T27. -/
theorem test_printRegister : after ((start 255 [0x47, 0]).writeReg 0 9) (fun t => (t.out, t.pc)) = some ([9], 1) := by decide
/-- T26: nothing is emitted. -/
theorem test_printRegister_fault : after (start 0 [0x47, 0xFF]) (fun t => (t.run, t.out, t.fault)) =
    some (.faulted, [], some ⟨.registerIndex, 0, 0x47, 255⟩) := by decide

/-! ### Stack -/

/-- T36: the PUSH overwrites its own operand byte and uses the latched one. -/
theorem test_push_over_itself : after (((start 0xF2 [0x45, 0]).writeReg 0 3).writeReg 1 0x99)
    (fun t => (t.readMem 0xF3, t.sp, t.pc)) = some (3, 0xF3, 0xF4) := by decide
/-- T31: `sp` wraps below 0. -/
theorem test_push_wraps : after (((start 0 [0x45, 2]).writeReg 2 0x5A).setSp 0) (fun t => (t.sp, t.readMem 0xFF, t.pc)) =
    some (0xFF, 0x5A, 2) := by decide
/-- T32: the popped cell keeps its value. -/
theorem test_pop : after (((start 0 [0x46, 3]).setSp 0xF3).writeMem 0xF3 0x77) (fun t => (t.readReg 3, t.sp, t.pc, t.readMem 0xF3)) =
    some (0x77, 0xF4, 2, 0x77) := by decide
/-- T34: `sp` wraps above 255. -/
theorem test_pop_wraps : after (((start 0 [0x46, 3]).setSp 0xFF).writeMem 0xFF 0x11) (fun t => (t.readReg 3, t.sp)) = some (0x11, 0) := by
  decide

/-! ### Control transfer -/

/-- T41: the return address wraps. -/
theorem test_call_wraps : after ((start 254 [0x50, 1]).writeReg 1 0x20 |>.writeMem 0xF3 0x55) (fun t => (t.sp, t.readMem 0xF3, t.pc)) =
    some (0xF3, 0, 0x20) := by decide
/-- T40. -/
theorem test_call : after ((start 6 [0x50, 1]).writeReg 1 11) (fun t => (t.sp, t.readMem 0xF3, t.pc)) = some (0xF3, 8, 11) := by decide
/-- T43. -/
theorem test_ret : after (((start 0 [0x11]).setSp 0xF3).writeMem 0xF3 8) (fun t => (t.pc, t.sp)) = some (8, 0xF4) := by decide
/-- T44: a RETURN from the empty stack is not detected. -/
theorem test_ret_empty : after (start 9 [0x11]) (fun t => (t.pc, t.sp)) = some (0, 0xF5) := by decide
/-- R152's example. -/
theorem test_jump : after ((start 12 [0x54, 3]).writeReg 3 0x14) (fun t => (t.pc, t.sp)) = some (0x14, 0xF4) := by decide
/-- T47. -/
theorem test_jump_fault : after (start 0 [0x54, 8]) (fun t => (t.run, t.fault, t.pc)) = some (.faulted, some ⟨.registerIndex, 0, 0x54, 8⟩, 0) := by
  decide

/-! ### Comparison and branch -/

/-- T53: the comparison is unsigned. -/
theorem test_compare_unsigned : after ((start 0 [0xA7, 0, 1]).writeReg 0 0x80 |>.writeReg 1 0x7F) (fun t => (t.fl, t.pc)) =
    some (0x02, 3) := by decide
/-- T54: the old `fl` is discarded. -/
theorem test_compare_equal : after (((start 0 [0xA7, 2, 2]).writeReg 2 9).setFl 4) (fun t => (t.fl, t.pc)) = some (0x01, 3) := by decide
/-- R161's example, taken. -/
theorem test_jumpIfEqual_taken : after (((start 12 [0x55, 2]).writeReg 2 20).setFl 1) (fun t => (t.pc, t.fl)) = some (20, 1) := by decide
/-- T59: an untaken branch still checks its operand. -/
theorem test_jumpIfEqual_untaken_fault : after (start 0 [0x55, 8]) (fun t => (t.run, t.fault)) =
    some (.faulted, some ⟨.registerIndex, 0, 0x55, 8⟩) := by decide
/-- T62: taken before any COMPARE. -/
theorem test_jumpIfNotEqual_taken : after ((start 0 [0x56, 2]).writeReg 2 20) (fun t => t.pc) = some 20 := by decide
/-- T61. -/
theorem test_jumpIfNotEqual_untaken : after (((start 0 [0x56, 2]).writeReg 2 20).setFl 1) (fun t => t.pc) = some 2 := by decide

/-! ### The engine -/

/-- T71. -/
theorem test_halt : after (start 255 [0x01]) (fun t => (t.run, t.pc)) = some (.halted, 255) := by decide
/-- T72 and T73: no step is enabled. -/
theorem test_stopped : after { start 0 [0x82, 0, 8] with run := .halted } (fun t => (t.pc, t.readReg 0)) = some (0, 0) ∧
    after { start 0 [0x00] with run := .faulted } (fun t => (t.pc, t.diag)) = some (0, []) := by decide
/-- T75: LS-8's SUB advances by 1, not 3. -/
theorem test_unrecognized : after (start 0 [0xA1, 0, 1]) (fun t => (t.diag, t.pc)) = some ([⟨0, 0xA1⟩], 1) := by decide
/-- T76. -/
theorem test_unrecognized_wraps : after (start 255 [0xFF]) (fun t => (t.diag, t.pc)) = some ([⟨255, 0xFF⟩], 0) := by decide

/-! ### Memory, image, loader and host -/

/-- Writing the reset value takes the entry out; entries stand in address order. -/
theorem test_memory_canonical : Memory.write (Memory.write (Memory.write [] 9 1) 4 2) 9 0 = [(4, 2)] ∧
    Memory.write (Memory.write [] 9 1) 4 2 = [(4, 2), (9, 1)] ∧ Memory.wf [(4, 2), (9, 1)] = true ∧
    Memory.wf [(9, 1), (4, 2)] = false ∧ Memory.wf [(4, 0)] = false ∧ Memory.wf [(256, 1)] = false := by decide
/-- P1's program file loads P1's bytes (95_test_vectors.md, program P1; R194). -/
theorem test_program_file : readLines ["10000010 # LDI r0,8".toList, "00000000".toList, "00001000".toList, "01000111 # PRN r0".toList,
    "00000000".toList, "00000001 # HLT".toList] = some [0x82, 0, 8, 0x47, 0, 1] := by decide
/-- E10: comment and blank lines, and `2` and `abc`, load nothing; D14: a literal above 255 is refused. -/
theorem test_program_file_skips : readLines ["# nothing here".toList, [], "   # indented comment".toList, "2".toList, "abc".toList,
    " 101 ".toList] = some [5] ∧ readLines ["100000000".toList] = none := by decide
/-- R208: DOC's example renders 8 as `8`; 255 prints as `255` (R131). -/
theorem test_print_line : printLine 8 = [0x38, 0x0A] ∧ printLine 255 = [0x32, 0x35, 0x35, 0x0A] ∧ printLine 40 = [0x34, 0x30, 0x0A] := by
  decide
/-- R192: a load before the first step is taken, one after it is not; R206: status 0 after HALT. -/
theorem test_load_port : ((Block.reset.moves [.load 0 1, .step]).map fun b => (b.engine.halted, b.loading, exitStatus b.engine)) =
    some (true, false, some 0) ∧ Block.reset.moves [.step, .load 0 1] = none := by decide
/-- R45: the snapshot before a step. -/
theorem test_trace : (start 3 [0x47, 5, 9]).traceSnapshot = ⟨3, ⟨0x47, 5, 9⟩, State.reset.x⟩ := by decide

/-! ### Witnesses: for each statement with hypotheses, a state and operands that meet them, at the edges of their ranges -/

theorem witness_OpcodeByteAloneSelects : (0x01 : Byte) ∈ specOpcodes ∧ (0xA7 : Byte) ∈ specOpcodes ∧ (0x00 : Byte) ∉ specOpcodes ∧
    (0xFF : Byte) ∉ specOpcodes ∧ (Instr.add 0 1).opcode = (Instr.add 2 3).opcode := by decide
theorem witness_IgnoredOperandBytesHaveNoEffect : (0xA8 : Byte) ∉ specOpcodes ∧
    (0x47 : Byte) ∈ ([0x47, 0x45, 0x46, 0x50, 0x54, 0x55, 0x56] : List Byte) ∧
    (0x56 : Byte) ∈ ([0x47, 0x45, 0x46, 0x50, 0x54, 0x55, 0x56] : List Byte) := by decide
theorem witness_StepRunsDecodedInstruction : (start 254 [0xA0, 0, 7]).run = .running ∧
    decode ⟨(start 254 [0xA0, 0, 7]).readMem 254, (start 254 [0xA0, 0, 7]).readMem (BitVec.ofNat 8 ((254 + 1) % 256)),
      (start 254 [0xA0, 0, 7]).readMem (BitVec.ofNat 8 ((254 + 2) % 256))⟩ = .instruction (.add 0 7) := by decide
theorem witness_StepRunsEncodingAtPc : (start 255 [0x82, 0, 8]).run = .running ∧
    ∀ k : Fin 3, (start 255 [0x82, 0, 8]).readMem (BitVec.ofNat 8 (255 + k.val)) = (encode (.loadImmediate 0 8))[k.val] := by decide
theorem witness_UnrecognizedOpcodeReportedAndSkipped : (start 255 [0xA1]).run = .running ∧
    (start 255 [0xA1]).readMem (start 255 [0xA1]).pc ∉ specOpcodes := by decide
theorem witness_StoppedEngineStandsStill : ({ State.reset with run := .halted } : State).run = .halted ∧
    ({ State.reset with run := .faulted } : State).run = .faulted := by decide
/-- The registers at both ends of the range, with any state, meet the hypotheses of the result statements of ADD, MULTIPLY,
LOAD-IMMEDIATE, PRINT-REGISTER, PUSH, POP, CALL, JUMP, COMPARE and the two branches, and of PushThenPopRoundTrip and
ExactlyOneBranchTaken. -/
theorem witness_register_operands : (0 : Byte).toNat < 8 ∧ (7 : Byte).toNat < 8 := by decide
theorem witness_ArithmeticWrapsUnsignalled : (State.reset.writeReg 7 255).readReg ⟨(7 : Byte).toNat, by decide⟩ = 255 ∧
    (State.reset.writeReg 7 255).readReg ⟨(0 : Byte).toNat, by decide⟩ = 0 := by decide
/-- The three clauses of COMPARE: equal, greater, less. -/
theorem witness_CompareResultAndFrame : (State.reset.readReg 0).toNat = (State.reset.readReg 7).toNat ∧
    ((State.reset.writeReg 0 255).readReg 0).toNat > ((State.reset.writeReg 0 255).readReg 7).toNat ∧
    ((State.reset.writeReg 7 255).readReg 0).toNat < ((State.reset.writeReg 7 255).readReg 7).toNat := by decide
/-- Both clauses of each branch: the E bit set and clear. -/
theorem witness_branch_clauses : (State.reset.setFl flagsEqual).fl.toNat % 2 = 1 ∧ (State.reset.setFl flagsLess).fl.toNat % 2 = 0 := by
  decide
theorem witness_EveryByteIsALegalTarget : ((State.reset.setFl 1).writeReg 7 255).readReg ⟨(7 : Byte).toNat, by decide⟩ = 255 ∧
    ((State.reset.setFl 1).writeReg 7 255).fl.toNat % 2 = 1 ∧ (State.reset.writeReg 7 255).fl.toNat % 2 = 0 ∧
    (State.reset.writeMem State.reset.sp 255).readMem (State.reset.writeMem State.reset.sp 255).sp = 255 := by decide
theorem witness_CallThenReturnSymmetry : (next? (exec (.call 7) State.reset)).map (fun t => (t.sp, t.readMem t.sp)) = some (0xF3, 2) ∧
    (((State.reset.writeReg 3 9).setSp 0xF3).writeMem 0xF3 2).readMem 0xF3 = 2 := by decide
theorem witness_PushOverItsOwnOperandUsesLatchedByte : ((start 0xF2 [0x45, 0]).fetch.a).toNat < 8 ∧
    (start 0xF2 [0x45, 0]).run = .running ∧ (start 0xF2 [0x45, 0]).fetch.op = 0x45 ∧
    (start 0xF2 [0x45, 0]).sp = (start 0xF2 [0x45, 0]).pc + 2 := by decide
theorem witness_StoreSeenByNextFetchNotByItsOwn : (start 0xF2 [0x45, 0]).run = .running ∧
    (start 0xF2 [0x45, 0]).fetch.op = 0x45 ∧ ((start 0xF2 [0x45, 0]).fetch.a).toNat < 8 ∧
    (start 0xF2 [0x50, 7]).run = .running ∧ (start 0xF2 [0x50, 7]).fetch.op = 0x50 ∧
    ((start 0xF2 [0x50, 7]).fetch.a).toNat < 8 := by decide
/-- Vector T46, and the last address. -/
theorem witness_JumpToItselfNeverEnds :
    (∃ ha : ((start 0x40 [0x54, 4]).writeReg 4 0x40).fetch.a.toNat < 8,
      ((start 0x40 [0x54, 4]).writeReg 4 0x40).run = .running ∧ ((start 0x40 [0x54, 4]).writeReg 4 0x40).fetch.op = 0x54 ∧
      ((start 0x40 [0x54, 4]).writeReg 4 0x40).readReg ⟨_, ha⟩ = ((start 0x40 [0x54, 4]).writeReg 4 0x40).pc) ∧
    (∃ ha : ((start 255 [0x54, 7]).writeReg 7 255).fetch.a.toNat < 8,
      ((start 255 [0x54, 7]).writeReg 7 255).run = .running ∧ ((start 255 [0x54, 7]).writeReg 7 255).fetch.op = 0x54 ∧
      ((start 255 [0x54, 7]).writeReg 7 255).readReg ⟨_, ha⟩ = ((start 255 [0x54, 7]).writeReg 7 255).pc) := by decide
theorem witness_MemoryWithoutOpcodesNeverEnds : State.reset.run = .running ∧ ∀ c : Addr, State.reset.readMem c ∉ specOpcodes :=
  ⟨rfl, fun _ => (by decide : (0 : Byte) ∉ specOpcodes)⟩
/-- `CALL r1` at 6 with 6 in `x1`: far from its own bytes, and with the next push on its operand byte. -/
theorem witness_CallToItselfRunsUntilItReachesItsOwnBytes :
    (∃ ha : ((start 6 [0x50, 1]).writeReg 1 6).fetch.a.toNat < 8,
      ((start 6 [0x50, 1]).writeReg 1 6).run = .running ∧ ((start 6 [0x50, 1]).writeReg 1 6).fetch.op = 0x50 ∧
      ((start 6 [0x50, 1]).writeReg 1 6).readReg ⟨_, ha⟩ = ((start 6 [0x50, 1]).writeReg 1 6).pc ∧
      ∀ j : Nat, j < 3 → ((start 6 [0x50, 1]).writeReg 1 6).sp - BitVec.ofNat 8 (j + 1) ≠ 6 ∧
        ((start 6 [0x50, 1]).writeReg 1 6).sp - BitVec.ofNat 8 (j + 1) ≠ 7) ∧
    (∃ ha : (((start 6 [0x50, 1]).writeReg 1 6).setSp 8).fetch.a.toNat < 8,
      (((start 6 [0x50, 1]).writeReg 1 6).setSp 8).run = .running ∧
      (((start 6 [0x50, 1]).writeReg 1 6).setSp 8).fetch.op = 0x50 ∧
      (((start 6 [0x50, 1]).writeReg 1 6).setSp 8).readReg ⟨_, ha⟩ = 6 ∧
      (((start 6 [0x50, 1]).writeReg 1 6).setSp 8).sp = (6 : Addr) + 2 ∧ 8 ≤ ((6 : Addr).toNat + 2) % 256) := by decide
theorem witness_FaultExactlyOnFirstBadOperand :
    (Instr.add 7 8).registerOperands.find? (fun v => decide (8 ≤ v.toNat)) = some 8 ∧
    (Instr.compare 255 8).registerOperands.find? (fun v => decide (8 ≤ v.toNat)) = some 255 ∧
    (Instr.add 7 0).wellFormed = true ∧ Instr.halt.wellFormed = true := by decide
theorem witness_FaultIsPrecise : (start 0 [0xA7, 7, 8]).run = .running ∧
    after (start 0 [0xA7, 7, 8]) (fun t => t.run) = some .faulted := by decide
theorem witness_OnlyHaltHalts : (start 5 [0x01]).run = .running ∧ after (start 5 [0x01]) (fun t => t.run) = some .halted ∧
    after (start 5 [0x54, 8]) (fun t => t.run) = some .faulted := by decide
theorem witness_OnlyCompareWritesFlags : (start 0 [0xA7, 0, 7]).fl = 0 ∧ after (start 0 [0xA7, 0, 7]) (fun t => t.fl) = some 1 := by
  decide
/-- Both alternatives of the hypothesis: another opcode with any `f`, and a branch with `f` differing in the other bits. -/
theorem witness_FlagsReadOnlyByBranchesAndOnlyEqualBit : (start 0 [0xA7, 0, 7]).readMem 0 ≠ 0x55 ∧
    (start 0 [0xA7, 0, 7]).readMem 0 ≠ 0x56 ∧ (start 0 [0x55, 0]).readMem 0 = 0x55 ∧
    (0xFE : Byte).toNat % 2 = (start 0 [0x55, 0]).fl.toNat % 2 ∧
    (next? (step (start 0 [0xA7, 0, 7]))).isSome = true ∧ (next? (step (start 0 [0x55, 0]))).isSome = true := by decide
theorem witness_CompareBitsExclusive : ((start 0 [0xA7, 0, 7]).fetch.a).toNat < 8 ∧ ((start 0 [0xA7, 0, 7]).fetch.b).toNat < 8 ∧
    (start 0 [0xA7, 0, 7]).run = .running ∧ (start 0 [0xA7, 0, 7]).fetch.op = 0xA7 ∧
    (next? (step (start 0 [0xA7, 0, 7]))).isSome = true := by decide
/-- A running state and a step that does not fault for each clause of the table. -/
theorem witness_NextPcByOpcode :
    ∀ bytes ∈ ([[0x01], [0x82, 7, 1], [0xA2, 0, 7], [0xA0, 0, 7], [0xA7, 0, 7], [0x47, 0], [0x45, 7], [0x46, 0], [0x50, 7], [0x54, 0],
      [0x11], [0x55, 7], [0x56, 0], [0x00]] : List (List Byte)),
      (start 254 bytes).run = .running ∧ (after (start 254 bytes) fun t => decide (t.run = .faulted)) = some false := by decide
theorem witness_OnlyFourOpcodesWriteARegister :
    after (start 0 [0x82, 7, 1]) (fun t => decide (t.readReg 7 = (start 0 [0x82, 7, 1]).readReg 7)) = some false := by decide
theorem witness_OnlyPushAndCallWriteMemory :
    after ((start 0 [0x45, 7]).writeReg 7 1) (fun t => t.readMem 0xF3) = some 1 ∧ (start 0 [0x45, 7]).readMem 0xF3 = 0 ∧
    after (start 0 [0x50, 7]) (fun t => t.readMem 0xF3) = some 2 ∧ (start 0 [0x50, 7]).readMem 0xF3 = 0 := by decide
theorem witness_OnlyStackInstructionsMoveSp : after (start 0 [0x50, 7]) (fun t => t.sp) = some 0xF3 ∧
    after (start 0 [0x11]) (fun t => t.sp) = some 0xF5 ∧ State.reset.sp = 0xF4 := by decide
theorem witness_AtMostOneEventPerStep : after (start 0 [0x47, 7]) (fun t => stepEvents (start 0 [0x47, 7]) t) = some [.out 0] ∧
    after (start 0 [0x02]) (fun t => stepEvents (start 0 [0x02]) t) = some [.diag ⟨0, 2⟩] := by decide
theorem witness_OutputStreamsAreWriteOnly : (next? (step (start 0 [0x47, 7]))).isSome = true := by decide
/-- For ImageLoadsFromAddressZero, LoadPortWritesGiveTheImage and ProgramFileLoadsItsBytes: the shortest and longest image, and
one too long. -/
theorem witness_image_lengths : ([] : List Byte).length ≤ 256 ∧ (List.replicate 256 (1 : Byte)).length ≤ 256 ∧
    256 < (List.replicate 257 (1 : Byte)).length := by
  simp only [List.length_replicate, List.length_nil]; decide
theorem witness_ImageLoadsFromAddressZero : ([0x82, 0] : List Byte).length ≤ 256 ∧ 0 < ([0x82, 0] : List Byte).length ∧
    ([0x82, 0] : List Byte).length ≤ 255 ∧ "   # indented".toList = List.replicate 3 ' ' ++ '#' :: " indented".toList ∧
    ([] : List Char) = List.replicate 0 ' ' := by decide
theorem witness_LoadPortClosedAfterFirstStep : HostMove.reset ∉ ([.step] : List HostMove) ∧
    (Block.reset.moves [.step, .step]).isSome = true := by decide
/-- A faulted state and a running one: the faulted clause of the invariant is met with a record that says something. -/
theorem witness_StepKeepsInvariant : Inv ((start 5 [0x54, 8]).raiseRegisterIndexFault 0x54 8) ∧ Inv (start 0 [0x01]) ∧
    (next? (step (start 0 [0x01]))).isSome = true :=
  ⟨⟨by decide, by decide, by decide, by decide, fun _ => ⟨8, by decide⟩⟩,
    ⟨by decide, by decide, by decide, by decide, fun h => RunState.noConfusion h⟩, by decide⟩
theorem witness_HostMovesKeepBlockInvariant : BlockInv ⟨start 0 [0x01], true⟩ ∧
    (Block.move ⟨start 0 [0x01], true⟩ (.load 255 1)).isSome = true ∧ (Block.move ⟨start 0 [0x01], true⟩ .step).isSome = true ∧
    (Block.move ⟨start 0 [0x01], true⟩ .reset).isSome = true :=
  ⟨⟨witness_StepKeepsInvariant.2.1, fun _ => rfl⟩, by decide⟩
/-- A function that meets both premises of `call_to_itself_faults_of_rules`; a state that meets the others is in
`witness_CallToItselfRunsUntilItReachesItsOwnBytes`. -/
theorem witness_call_to_itself_rules : ∃ f : State → State,
    (∀ (s : State) (ha : s.fetch.a.toNat < 8), s.run = .running → s.fetch.op = opCall →
      f s = (s.pushByte s.returnAddress).setPc (s.readReg ⟨s.fetch.a.toNat, ha⟩)) ∧
    (∀ s : State, s.run = .running → s.fetch.op = opCall → 8 ≤ s.fetch.a.toNat →
      f s = s.raiseRegisterIndexFault opCall s.fetch.a) :=
  ⟨fun s => if ha : s.fetch.a.toNat < 8 then (s.pushByte s.returnAddress).setPc (s.readReg ⟨s.fetch.a.toNat, ha⟩)
    else s.raiseRegisterIndexFault opCall s.fetch.a,
    fun _ ha _ _ => dif_pos ha, fun _ _ _ h => dif_neg (Nat.not_lt.mpr h)⟩
/-- The image 50 00 right after reset (`CALL r0` at 0 with 0 in `x0` and in `x2`), and a `CALL r0` at 254 whose pushes wrap. -/
theorem witness_CallToItselfNeverEndsWhereItsReturnAddressCallsItToo :
    (∃ (ha : (start 0 [0x50, 0]).fetch.a.toNat < 8) (hv : ((start 0 [0x50, 0]).pc + 2).toNat < 8),
      (start 0 [0x50, 0]).pc + 2 ≠ 0x01 ∧ (start 0 [0x50, 0]).run = .running ∧ (start 0 [0x50, 0]).fetch.op = 0x50 ∧
      (start 0 [0x50, 0]).readReg ⟨_, ha⟩ = (start 0 [0x50, 0]).pc ∧ (start 0 [0x50, 0]).readReg ⟨_, hv⟩ = (start 0 [0x50, 0]).pc ∧
      ∀ c : Addr, (start 0 [0x50, 0]).readMem c ∈ specOpcodes →
        ((start 0 [0x50, 0]).sp - 1 - c).toNat ≤ ((start 0 [0x50, 0]).sp - 1 - (start 0 [0x50, 0]).pc).toNat) ∧
    (∃ (ha : ((start 254 [0x50, 0]).writeReg 0 254).fetch.a.toNat < 8)
        (hv : (((start 254 [0x50, 0]).writeReg 0 254).pc + 2).toNat < 8),
      ((start 254 [0x50, 0]).writeReg 0 254).pc + 2 ≠ 0x01 ∧ ((start 254 [0x50, 0]).writeReg 0 254).run = .running ∧
      ((start 254 [0x50, 0]).writeReg 0 254).fetch.op = 0x50 ∧
      ((start 254 [0x50, 0]).writeReg 0 254).readReg ⟨_, ha⟩ = 254 ∧ ((start 254 [0x50, 0]).writeReg 0 254).readReg ⟨_, hv⟩ = 254 ∧
      ∀ c : Addr, ((start 254 [0x50, 0]).writeReg 0 254).readMem c ∈ specOpcodes →
        (((start 254 [0x50, 0]).writeReg 0 254).sp - 1 - c).toNat ≤
          (((start 254 [0x50, 0]).writeReg 0 254).sp - 1 - ((start 254 [0x50, 0]).writeReg 0 254).pc).toNat) := by decide
theorem witness_CanonicalMemoriesReadingAlikeAreEqual : Memory.wf [(0, 1), (255, 2)] = true ∧
    Memory.write (Memory.write [] 255 2) 0 1 = [(0, 1), (255, 2)] := by decide

end Sys2Proof.Tests
end

section
/-! PROOFS. The registers and the flags byte `fl` (10_state.md R25, R32, R33): what reset leaves in a register, which instruction
writes `fl`, and that two runs that differ in `fl` alone stay so. -/

namespace Sys2Proof.Machine

/-! ### Reset -/

@[simp] theorem State.readReg_reset (r : RegIndex) : State.reset.readReg r = 0 :=
  (Vector.get_eq_getElem ..).trans (Vector.getElem_replicate ..)

/-- Settles O47: reset fills the registers with `Config.regReset`. -/
theorem registersZeroAtReset : Obligations.RegistersZeroAtReset := State.readReg_reset

/-! ### Which step writes `fl` (R32) -/

/-- Every effect of a step but COMPARE's keeps `fl`; the fault a COMPARE may raise keeps it too. -/
theorem StepEffect.fl_eq_or_compare {s t : State} (h : StepEffect s t) : t.fl = s.fl ∨ s.fetch.op = opCompare := by
  cases h with
  | compare _ _ hop => exact .inr hop
  | jumpIfEqual | jumpIfNotEqual => exact .inl (branchEffect_fl ..)
  | _ => exact .inl rfl

theorem running_compare_of_fl_ne {s t : State} (hs : step s = .next t) (hfl : t.fl ≠ s.fl) :
    s.run = .running ∧ s.readMem s.pc = opCompare := by
  have hr : s.run = .running := by
    by_contra hr
    exact hfl (congrArg State.fl (step_of_not_running hr hs))
  exact ⟨hr, (step_effect hr hs).fl_eq_or_compare.resolve_left hfl⟩

theorem compareFlags_eq_one_of_three (p q : Byte) :
    compareFlags p q = flagsLess ∨ compareFlags p q = flagsGreater ∨ compareFlags p q = flagsEqual := by
  obtain ⟨_, h⟩ | ⟨_, h⟩ | ⟨_, h⟩ := compareFlags_cases p q
  · exact .inr (.inr h)
  · exact .inr (.inl h)
  · exact .inl h

/-- Settles O38: the change of `fl` singles out COMPARE among the effects of a step, and COMPARE writes `compareFlags`. -/
theorem onlyCompareWritesFlags : Obligations.OnlyCompareWritesFlags := fun _ _ hs =>
  ⟨running_compare_of_fl_ne hs, fun _ _ ha hb => ⟨_, withRegs_of_lt ha hb, compareFlags_eq_one_of_three _ _⟩⟩

/-! ### Who reads `fl` (R33)

Each arm of `exec` is run from `s` and from `s.setFl f`. Either it carries the difference along, or (COMPARE) it discards it. -/

/-- The answers of one effect to `s` and to `s.setFl f`, when the effect does not read where the two differ. -/
inductive SameButFlags (s : State) (f : Byte) :
    Host.Outcome State Fault Refusal → Host.Outcome State Fault Refusal → Prop where
  /-- The effect left `fl` as it was, so the answers differ as the two states did. -/
  | kept {t : State} : t.fl = s.fl → SameButFlags s f (.next t) (.next (t.setFl f))
  /-- The effect wrote the same byte to `fl` in both, so the answers are the same. -/
  | written {t : State} : SameButFlags s f (.next t) (.next t)

/-- What the relation says of the next states, in the words of R33. -/
theorem SameButFlags.exists_next {s t : State} {f : Byte} {o o' : Host.Outcome State Fault Refusal}
    (h : SameButFlags s f o o') (ho : o = .next t) :
    ∃ t', o' = .next t' ∧ t'.setFl t.fl = t ∧ (t'.fl = t.fl ∨ (t'.fl = f ∧ t.fl = s.fl)) := by
  cases h with
  | kept hfl => cases ho; exact ⟨_, rfl, rfl, .inr ⟨rfl, hfl⟩⟩
  | written => cases ho; exact ⟨_, rfl, rfl, .inl rfl⟩

/-- Neither a register operand's check nor its fault reads `fl`. -/
theorem SameButFlags.withReg {op a : Byte} {s : State} {f : Byte} {effect effect' : RegIndex → State}
    (h : ∀ r, SameButFlags s f (.next (effect r)) (.next (effect' r))) :
    SameButFlags s f (withReg op a s effect) (withReg op a (s.setFl f) effect') := by
  rcases Nat.lt_or_ge a.toNat 8 with ha | ha
  · rw [withReg_of_lt ha, withReg_of_lt ha]
    exact h _
  · rw [withReg_of_ge ha, withReg_of_ge ha]
    exact .kept rfl

/-- Neither the check of two register operands nor its faults read `fl`. -/
theorem SameButFlags.withRegs {op a b : Byte} {s : State} {f : Byte} {effect effect' : RegIndex → RegIndex → State}
    (h : ∀ r q, SameButFlags s f (.next (effect r q)) (.next (effect' r q))) :
    SameButFlags s f (withRegs op a b s effect) (withRegs op a b (s.setFl f) effect') := by
  rcases Nat.lt_or_ge a.toNat 8 with ha | ha
  · rcases Nat.lt_or_ge b.toNat 8 with hb | hb
    · rw [withRegs_of_lt ha hb, withRegs_of_lt ha hb]
      exact h _ _
    · rw [withRegs_of_second_ge ha hb, withRegs_of_second_ge ha hb]
      exact .kept rfl
  · rw [withRegs_of_first_ge ha, withRegs_of_first_ge ha]
    exact .kept rfl

/-- A branch that decides alike in both states carries the difference along: `fl` only enters through the decision. -/
theorem SameButFlags.branchEffect {s : State} {f : Byte} {k k' : Bool} (hk : k' = k) (r : RegIndex) :
    SameButFlags s f (.next (branchEffect k s r)) (.next (branchEffect k' (s.setFl f) r)) := by
  subst hk
  cases k' <;> exact .kept rfl

/-- R33 for the execute part of a step: only the two branches ask anything of `fl`, and they ask for its E bit alone. -/
theorem exec_sameButFlags {i : Instr} {s : State} {f : Byte}
    (hE : i.opcode = opJumpIfEqual ∨ i.opcode = opJumpIfNotEqual → (s.setFl f).equalBit = s.equalBit) :
    SameButFlags s f (exec i s) (exec i (s.setFl f)) := by
  cases i with
  | halt | ret => exact .kept rfl
  | multiply | add => exact .withRegs fun _ _ => .kept rfl
  | compare => exact .withRegs fun _ _ => .written
  | jumpIfEqual => exact .withReg (.branchEffect (hE (.inl rfl)))
  | jumpIfNotEqual => exact .withReg (.branchEffect (congrArg (! ·) (hE (.inr rfl))))
  | loadImmediate | printRegister | push | pop | call | jump => exact .withReg fun _ => .kept rfl

/-- One comparison of the decoder's chain: if it answers the instruction whose opcode it compared with, and the rest of the chain
does likewise, the instruction answered has the opcode byte `op`. -/
theorem opcode_of_decode_chain {op : Byte} {c : Prop} [Decidable c] {i j : Instr} {rest : Decoded} (hj : c → j.opcode = op)
    (hrest : rest = .instruction i → i.opcode = op) :
    (if c then .instruction j else rest) = .instruction i → i.opcode = op := by
  by_cases hc : c
  · rw [if_pos hc]
    rintro ⟨⟩
    exact hj hc
  · rwa [if_neg hc]

/-- The instruction the decoder answers has the fetched opcode byte (R76). -/
theorem opcode_of_decode {b : Fetched} {i : Instr} : decode b = .instruction i → i.opcode = b.op := by
  unfold decode
  iterate 13 refine opcode_of_decode_chain Eq.symm ?_
  exact nofun

/-- R33 for a step: the fetch does not read `fl`, an unrecognized opcode does not, and a stopped engine does nothing. -/
theorem step_sameButFlags {s : State} {f : Byte}
    (hE : s.fetch.op = opJumpIfEqual ∨ s.fetch.op = opJumpIfNotEqual → (s.setFl f).equalBit = s.equalBit) :
    SameButFlags s f (step s) (step (s.setFl f)) := by
  have hfetch : (s.setFl f).fetch = s.fetch := rfl
  unfold step
  rw [State.setFl_run]
  cases s.run with
  | halted | faulted => exact .kept rfl
  | running =>
    simp only [execFetched, hfetch]
    cases hd : decode s.fetch with
    | instruction i => exact exec_sameButFlags (opcode_of_decode hd ▸ hE)
    | unrecognizedOpcode op => exact .kept rfl

theorem equalBit_setFl_of_parity {s : State} {f : Byte} (h : f.toNat % 2 = s.fl.toNat % 2) :
    (s.setFl f).equalBit = s.equalBit := by
  rw [State.equalBit_eq, State.equalBit_eq, State.setFl_fl, h]

/-- Settles O39: the step from `s` and the step from `s.setFl f` are related arm by arm (`exec_sameButFlags`). -/
theorem flagsReadOnlyByBranchesAndOnlyEqualBit : Obligations.FlagsReadOnlyByBranchesAndOnlyEqualBit := by
  intro s t f hs hreads
  have hE : s.fetch.op = opJumpIfEqual ∨ s.fetch.op = opJumpIfNotEqual → (s.setFl f).equalBit = s.equalBit := by
    intro hbranch
    obtain ⟨hne, hne'⟩ | hparity := hreads
    · exact absurd hbranch (not_or_intro hne hne')
    · exact equalBit_setFl_of_parity hparity
  exact (step_sameButFlags hE).exists_next hs

end Sys2Proof.Machine
end

section
/-! PROOFS. Memory after reset and after the load (20_memory.md R51): what an image written at consecutive addresses leaves in
every cell, and which lines of a program file load nothing. -/

namespace Sys2Proof.Machine

/-! ### Bytes written at consecutive addresses (R51, R193) -/

@[simp] theorem State.readMem_reset (c : Addr) : State.reset.readMem c = 0 := rfl

/-- Numbers below 256 name different cells when they differ. -/
theorem addr_ofNat_ne {k n : Nat} (hk : k < 256) (hn : n < 256) (h : k ≠ n) : BitVec.ofNat 8 k ≠ BitVec.ofNat 8 n := by
  intro e
  have hmod : k % 256 = n % 256 := congrArg BitVec.toNat e
  omega

/-- The cells below and beyond the bytes keep what they held. -/
theorem Memory.read_writeFrom_outside {m : Memory} {n k : Nat} {vs : List Byte} (hfit : n + vs.length ≤ 256) (hk : k < 256)
    (h : k < n ∨ n + vs.length ≤ k) : (m.writeFrom n vs).read (BitVec.ofNat 8 k) = m.read (BitVec.ofNat 8 k) := by
  induction vs generalizing m n with
  | nil => rfl
  | cons v vs ih =>
    rw [List.length_cons] at hfit h
    have hne : BitVec.ofNat 8 k ≠ BitVec.ofNat 8 n := addr_ofNat_ne hk (by omega) (by omega)
    calc ((m.write (BitVec.ofNat 8 n) v).writeFrom (n + 1) vs).read (BitVec.ofNat 8 k)
      _ = (m.write (BitVec.ofNat 8 n) v).read (BitVec.ofNat 8 k) := ih (by omega) (by omega)
      _ = m.read (BitVec.ofNat 8 k) := Memory.read_write_other _ _ _ _ hne

/-- The `k`-th byte is in the `k`-th cell from `n` on: the writes after its own go to higher addresses. -/
theorem Memory.read_writeFrom_getElem {m : Memory} {n k : Nat} {vs : List Byte} (hfit : n + vs.length ≤ 256)
    (hk : k < vs.length) : (m.writeFrom n vs).read (BitVec.ofNat 8 (n + k)) = vs[k] := by
  induction vs generalizing m n k with
  | nil => exact absurd hk (Nat.not_lt_zero k)
  | cons v vs ih =>
    rw [List.length_cons] at hfit hk
    cases k with
    | zero =>
      calc ((m.write (BitVec.ofNat 8 n) v).writeFrom (n + 1) vs).read (BitVec.ofNat 8 n)
        _ = (m.write (BitVec.ofNat 8 n) v).read (BitVec.ofNat 8 n) :=
            Memory.read_writeFrom_outside (by omega) (by omega) (.inl (Nat.lt_succ_self n))
        _ = v := Memory.read_write_same _ _ _
    | succ k =>
      have hshift : n + (k + 1) = n + 1 + k := by omega
      rw [hshift]
      exact ih (by omega) (Nat.lt_of_succ_lt_succ hk)

theorem loadImage_of_length_le {image : List Byte} (h : image.length ≤ 256) :
    loadImage image = some { State.reset with mem := State.reset.mem.writeFrom 0 image } := if_pos h

/-! ### Lines that load nothing (R194) -/

theorem lineContent_of_spaces {l : List Char} {n : Nat} (h : l.takeWhile (· ≠ '#') = List.replicate n ' ') :
    lineContent l = [] := by
  have hblank : isBlank ' ' = true := by decide
  rw [lineContent, h, List.dropWhile_replicate, if_pos hblank]
  rfl

theorem readLine_blank (n : Nat) : readLine (List.replicate n ' ') = .skipped := by
  have h : (List.replicate n ' ').takeWhile (· ≠ '#') = List.replicate n ' ' := by simp
  rw [readLine, lineContent_of_spaces h]

theorem readLine_comment (n : Nat) (comment : List Char) :
    readLine (List.replicate n ' ' ++ '#' :: comment) = .skipped := by
  have h : (List.replicate n ' ' ++ '#' :: comment).takeWhile (· ≠ '#') = List.replicate n ' ' := by simp
  rw [readLine, lineContent_of_spaces h]

theorem readLines_of_skipped {lines : List (List Char)} (h : ∀ l ∈ lines, readLine l = .skipped) :
    readLines lines = some [] := by
  induction lines with
  | nil => rfl
  | cons l lines ih =>
    obtain ⟨hl, hlines⟩ := List.forall_mem_cons.mp h
    rw [readLines, hl]
    exact ih hlines

theorem loadFile_of_skipped {lines : List (List Char)} (h : ∀ l ∈ lines, readLine l = .skipped) :
    loadFile lines = some State.reset := by
  rw [loadFile, readLines_of_skipped h]
  rfl

/-- Settles O49: the image's cells and the cells beyond it are read off `Memory.writeFrom` at address 0, and a file of blank and
comment lines is the empty image. -/
theorem imageLoadsFromAddressZero : Obligations.ImageLoadsFromAddressZero := by
  refine ⟨State.readMem_reset, fun image hlen => ?_, fun lines hlines => loadFile_of_skipped fun l hl => ?_⟩
  · have hfit : 0 + image.length ≤ 256 := by omega
    refine ⟨_, loadImage_of_length_le hlen, fun k hk => ?_, fun k hbeyond hk => ?_, rfl⟩
    · have hread := Memory.read_writeFrom_getElem (m := State.reset.mem) hfit hk
      rw [Nat.zero_add] at hread
      exact hread
    · exact Memory.read_writeFrom_outside hfit hk (.inr (by omega))
  · obtain ⟨n, comment, rfl | rfl⟩ := hlines l hl
    · exact readLine_blank n
    · exact readLine_comment n comment

end Sys2Proof.Machine
end

section
/-! PROOFS. The opcode byte (30_encoding.md R74, R76, R79): the table's bytes are the opcodes of the instructions, the decoder's
answer and the instruction's form follow from that byte, and bytes that decode alike execute alike. -/

namespace Sys2Proof

/-! ### The table of opcodes (R78) -/

/-- The spec's table holds the opcodes of the instructions, in the order of the decoder's comparisons. -/
theorem specOpcodes_eq : specOpcodes = [opHalt, opLoadImmediate, opPrintRegister, opMultiply, opPush, opPop, opCall, opRet, opAdd,
    opCompare, opJump, opJumpIfEqual, opJumpIfNotEqual] := rfl

theorem exists_opcode_of_mem_specOpcodes : ∀ op ∈ specOpcodes, ∃ i : Instr, i.opcode = op := by
  simp only [specOpcodes_eq, List.forall_mem_cons]
  exact ⟨⟨.halt, rfl⟩, ⟨.loadImmediate 0 0, rfl⟩, ⟨.printRegister 0, rfl⟩, ⟨.multiply 0 0, rfl⟩, ⟨.push 0, rfl⟩, ⟨.pop 0, rfl⟩,
    ⟨.call 0, rfl⟩, ⟨.ret, rfl⟩, ⟨.add 0 0, rfl⟩, ⟨.compare 0 0, rfl⟩, ⟨.jump 0, rfl⟩, ⟨.jumpIfEqual 0, rfl⟩,
    ⟨.jumpIfNotEqual 0, rfl⟩, nofun⟩

/-! ### What the opcode byte decides (R76) -/

/-- Bytes that begin with an instruction's opcode decode to an instruction of its form, whatever its operands and theirs are. -/
theorem exists_decode_sameForm {f : Fetched} {i : Instr} (h : f.op = i.opcode) : ∃ j, decode f = .instruction j ∧
    j.registerOperands.length = i.registerOperands.length ∧ j.length = i.length := by
  cases i with
  | halt => exact ⟨_, decode_opHalt h, rfl, rfl⟩
  | loadImmediate => exact ⟨_, decode_opLoadImmediate h, rfl, rfl⟩
  | printRegister => exact ⟨_, decode_opPrintRegister h, rfl, rfl⟩
  | multiply => exact ⟨_, decode_opMultiply h, rfl, rfl⟩
  | push => exact ⟨_, decode_opPush h, rfl, rfl⟩
  | pop => exact ⟨_, decode_opPop h, rfl, rfl⟩
  | call => exact ⟨_, decode_opCall h, rfl, rfl⟩
  | ret => exact ⟨_, decode_opRet h, rfl, rfl⟩
  | add => exact ⟨_, decode_opAdd h, rfl, rfl⟩
  | compare => exact ⟨_, decode_opCompare h, rfl, rfl⟩
  | jump => exact ⟨_, decode_opJump h, rfl, rfl⟩
  | jumpIfEqual => exact ⟨_, decode_opJumpIfEqual h, rfl, rfl⟩
  | jumpIfNotEqual => exact ⟨_, decode_opJumpIfNotEqual h, rfl, rfl⟩

theorem decode_of_mem_specOpcodes {f : Fetched} (h : f.op ∈ specOpcodes) :
    ∃ i, decode f = .instruction i ∧ i.opcode = f.op := by
  obtain ⟨i, hi⟩ := exists_opcode_of_mem_specOpcodes _ h
  obtain ⟨j, hd, -⟩ := exists_decode_sameForm hi.symm
  exact ⟨j, hd, Machine.opcode_of_decode hd⟩

theorem decode_of_not_mem_specOpcodes {f : Fetched} (h : f.op ∉ specOpcodes) : decode f = .unrecognizedOpcode f.op := by
  simp only [specOpcodes_eq, List.mem_cons, not_or] at h
  obtain ⟨h1, h2, h3, h4, h5, h6, h7, h8, h9, h10, h11, h12, h13, -⟩ := h
  exact decode_unrecognized h1 h2 h3 h4 h5 h6 h7 h8 h9 h10 h11 h12 h13

/-- Two instructions with one opcode have one form: both have the form of what the decoder answers for that opcode. -/
theorem sameForm_of_opcode_eq {i j : Instr} (h : i.opcode = j.opcode) :
    i.registerOperands.length = j.registerOperands.length ∧ i.length = j.length := by
  obtain ⟨k, hk, hregs, hlen⟩ := exists_decode_sameForm (f := ⟨i.opcode, 0, 0⟩) (i := i) rfl
  obtain ⟨k', hk', hregs', hlen'⟩ := exists_decode_sameForm (f := ⟨i.opcode, 0, 0⟩) h
  obtain rfl : k = k' := Decoded.instruction.inj (hk.symm.trans hk')
  exact ⟨hregs.symm.trans hregs', hlen.symm.trans hlen'⟩

/-- Settles O4: each byte of the table is an instruction's opcode, and the decoder's answer for an opcode fixes the form. -/
theorem opcodeByteAloneSelects : Obligations.OpcodeByteAloneSelects := fun _ =>
  ⟨decode_of_mem_specOpcodes, decode_of_not_mem_specOpcodes, fun _ _ => sameForm_of_opcode_eq⟩

end Sys2Proof

namespace Sys2Proof.Machine

/-! ### Ignored operand bytes (R74) -/

/-- Executing reads the fetched bytes through the decoder alone. -/
theorem execFetched_eq_of_decode {f f' : Fetched} {d : Decoded} {s : State} (h : decode f = d) (h' : decode f' = d) :
    execFetched f s = execFetched f' s := by
  unfold execFetched
  rw [h, h']

theorem execFetched_ignores_operands {op a b a' b' : Byte} {s : State} (h : op = 0x01 ∨ op = 0x11 ∨ op ∉ specOpcodes) :
    execFetched ⟨op, a, b⟩ s = execFetched ⟨op, a', b'⟩ s := by
  rcases h with h | h | h
  · exact execFetched_eq_of_decode (decode_opHalt h) (decode_opHalt h)
  · exact execFetched_eq_of_decode (decode_opRet h) (decode_opRet h)
  · exact execFetched_eq_of_decode (decode_of_not_mem_specOpcodes h) (decode_of_not_mem_specOpcodes h)

theorem execFetched_ignores_second_operand {op a b b' : Byte} {s : State}
    (h : op ∈ ([0x47, 0x45, 0x46, 0x50, 0x54, 0x55, 0x56] : List Byte)) :
    execFetched ⟨op, a, b⟩ s = execFetched ⟨op, a, b'⟩ s := by
  simp only [List.mem_cons, List.not_mem_nil, or_false] at h
  rcases h with h | h | h | h | h | h | h
  · exact execFetched_eq_of_decode (decode_opPrintRegister h) (decode_opPrintRegister h)
  · exact execFetched_eq_of_decode (decode_opPush h) (decode_opPush h)
  · exact execFetched_eq_of_decode (decode_opPop h) (decode_opPop h)
  · exact execFetched_eq_of_decode (decode_opCall h) (decode_opCall h)
  · exact execFetched_eq_of_decode (decode_opJump h) (decode_opJump h)
  · exact execFetched_eq_of_decode (decode_opJumpIfEqual h) (decode_opJumpIfEqual h)
  · exact execFetched_eq_of_decode (decode_opJumpIfNotEqual h) (decode_opJumpIfNotEqual h)

/-- Settles O5: fetched bytes that differ where the format ignores them decode to the same answer. -/
theorem ignoredOperandBytesHaveNoEffect : Obligations.IgnoredOperandBytesHaveNoEffect := fun _ _ _ _ _ _ =>
  ⟨execFetched_ignores_operands, execFetched_ignores_second_operand⟩

end Sys2Proof.Machine
end

section
/-! PROOFS. Control transfer (44_control_transfer.md R154): what each transfer does when its operand names a register, and that
the byte it goes to is not looked at. -/

namespace Sys2Proof.Machine

/-! ### The transfers, their operand validated -/

section

variable {a : Byte} {s : State} (ha : a.toNat < 8)
include ha

theorem exec_call_of_lt :
    exec (.call a) s = .next ((s.pushByte s.returnAddress).setPc (s.readReg ⟨a.toNat, ha⟩)) := withReg_of_lt ha

theorem exec_jump_of_lt : exec (.jump a) s = .next (s.setPc (s.readReg ⟨a.toNat, ha⟩)) := withReg_of_lt ha

theorem exec_jumpIfEqual_of_lt :
    exec (.jumpIfEqual a) s = .next (branchEffect s.equalBit s ⟨a.toNat, ha⟩) := withReg_of_lt ha

theorem exec_jumpIfNotEqual_of_lt :
    exec (.jumpIfNotEqual a) s = .next (branchEffect (!s.equalBit) s ⟨a.toNat, ha⟩) := withReg_of_lt ha

/-- With the E bit set, JUMP-IF-EQUAL is a JUMP (R161). -/
theorem exec_jumpIfEqual_taken (hE : s.fl.toNat % 2 = 1) : exec (.jumpIfEqual a) s = exec (.jump a) s := by
  have hbit : s.equalBit = true := by simp [State.equalBit_eq, hE]
  rw [exec_jumpIfEqual_of_lt ha, exec_jump_of_lt ha, hbit]
  rfl

/-- With the E bit clear, JUMP-IF-NOT-EQUAL is a JUMP (R162). -/
theorem exec_jumpIfNotEqual_taken (hE : s.fl.toNat % 2 = 0) : exec (.jumpIfNotEqual a) s = exec (.jump a) s := by
  have hbit : s.equalBit = false := by simp [State.equalBit_eq, hE]
  rw [exec_jumpIfNotEqual_of_lt ha, exec_jump_of_lt ha, hbit]
  rfl

end

theorem exec_ret (s : State) : exec .ret s = .next (s.dropTop.setPc (s.readMem s.sp)) := rfl

/-! ### Every byte is a legal target (R154) -/

/-- A JUMP goes to the byte in its register, whatever it is, without a fault. -/
theorem exec_jump_legal {a : Byte} {s : State} (ha : a.toNat < 8) :
    ∃ t, exec (.jump a) s = .next t ∧ t.pc = s.readReg ⟨a.toNat, ha⟩ ∧ StatusSame s t :=
  ⟨_, exec_jump_of_lt ha, State.setPc_pc .., rfl, rfl⟩

/-- Settles O26: every transfer ends in a `setPc`, which takes any byte; a taken branch is a JUMP. -/
theorem everyByteIsALegalTarget : Obligations.EveryByteIsALegalTarget := by
  refine fun v a s ha => ⟨?fromRegister, ?fromStack⟩
  case fromRegister =>
    rintro rfl
    refine ⟨?call, exec_jump_legal ha, ?equal, ?notEqual⟩
    case call => exact ⟨_, exec_call_of_lt ha, State.setPc_pc .., ⟨rfl, rfl⟩, fun _ => rfl⟩
    case equal => exact fun hE => exec_jumpIfEqual_taken ha hE ▸ exec_jump_legal ha
    case notEqual => exact fun hE => exec_jumpIfNotEqual_taken ha hE ▸ exec_jump_legal ha
  case fromStack =>
    rintro rfl
    exact ⟨_, exec_ret s, State.setPc_pc .., rfl, rfl⟩

end Sys2Proof.Machine
end

section
/-! PROOFS. Exceptions (60_exceptions.md R174): no instruction and no step answers one of the model's `Fault`s, since each answers
a next state; a bad register index does too (R173). -/

namespace Sys2Proof.Machine

/-! ### Every instruction and every step answers a next state -/

theorem safe_withReg (op a : Byte) (s : State) (effect : RegIndex → State) : Safe (withReg op a s effect) := by
  obtain ⟨_, hgood⟩ | ⟨_, hbad⟩ := withReg_cases op a s effect
  · exact ⟨_, hgood⟩
  · exact ⟨_, hbad⟩

theorem safe_withRegs (op a b : Byte) (s : State) (effect : RegIndex → RegIndex → State) :
    Safe (withRegs op a b s effect) := by
  obtain ⟨_, _, hgood⟩ | ⟨_, hbadFirst⟩ | ⟨_, _, hbadSecond⟩ := withRegs_cases op a b s effect
  · exact ⟨_, hgood⟩
  · exact ⟨_, hbadFirst⟩
  · exact ⟨_, hbadSecond⟩

/-- An arm of the dispatch answers its next state outright or by way of its operand form (R102). -/
theorem safe_exec (i : Instr) (s : State) : Safe (exec i s) := by
  cases i with
  | halt | ret => exact ⟨_, rfl⟩
  | multiply | add | compare => exact safe_withRegs ..
  | loadImmediate | printRegister | push | pop | call | jump | jumpIfEqual | jumpIfNotEqual => exact safe_withReg ..

theorem safe_execFetched (f : Fetched) (s : State) : Safe (execFetched f s) := by
  unfold execFetched
  cases decode f with
  | instruction i => exact safe_exec i s
  | unrecognizedOpcode op => exact ⟨_, rfl⟩

/-- A running engine executes what it fetched; a stopped one stands still (R100). -/
theorem safe_step (s : State) : Safe (step s) := by
  unfold step
  cases s.run with
  | running => exact safe_execFetched s.fetch s
  | halted | faulted => exact ⟨s, rfl⟩

/-! ### So none answers a fault (R174) -/

theorem ne_fault_of_safe {o : Host.Outcome State Fault Refusal} (h : Safe o) (r : Fault) : o ≠ .fault r := by
  obtain ⟨t, rfl⟩ := h
  exact nofun

/-- Settles O11: an outcome that is a next state is not a fault. -/
theorem unsupportedAluOperationNeverRaised : Obligations.UnsupportedAluOperationNeverRaised :=
  ⟨fun i s => ne_fault_of_safe (safe_exec i s) _, fun s => ne_fault_of_safe (safe_step s) _⟩

end Sys2Proof.Machine
end

section
/-! PROOFS. Encoding (30_encoding.md R70 to R80): the decoder inverts the encoder, an instruction's bytes and nothing else select
it, and a step runs the instruction whose bytes stand at `pc` (40_engine_cycle.md R101, R102). -/

namespace Sys2Proof

/-! ### The decoder inverts the encoder -/

theorem decode_encode_append (i : Instr) (rest : List Byte) :
    decode (Fetched.ofBytes (encode i ++ rest)) = .instruction i := by
  cases i with
  | halt => exact decode_opHalt rfl
  | loadImmediate => exact decode_opLoadImmediate rfl
  | printRegister => exact decode_opPrintRegister rfl
  | multiply => exact decode_opMultiply rfl
  | push => exact decode_opPush rfl
  | pop => exact decode_opPop rfl
  | call => exact decode_opCall rfl
  | ret => exact decode_opRet rfl
  | add => exact decode_opAdd rfl
  | compare => exact decode_opCompare rfl
  | jump => exact decode_opJump rfl
  | jumpIfEqual => exact decode_opJumpIfEqual rfl
  | jumpIfNotEqual => exact decode_opJumpIfNotEqual rfl

/-- Settles O2: the encoding begins with the instruction's opcode, for which the decoder's answer is known. -/
theorem decodeEncodeRoundTrip : Obligations.DecodeEncodeRoundTrip := decode_encode_append

/-- Settles O1: each word is the encoding of its instruction; the last one's first byte is no opcode. -/
theorem specWordsDecode : Obligations.SpecWordsDecode :=
  ⟨decode_encode_append .halt [], decode_encode_append (.loadImmediate 0 8) [], decode_encode_append (.push 2) [],
    decode_encode_append (.call 1) [], decode_encode_append (.add 0 1) [], decode_encode_append (.compare 2 5) [],
    decode_encode_append (.jumpIfNotEqual 2) [], decode_of_not_mem_specOpcodes (by decide)⟩

/-! ### Fetched bytes and encodings -/

theorem decode_of_encode_prefix {f : Fetched} {i : Instr} (h : encode i <+: [f.op, f.a, f.b]) : decode f = .instruction i := by
  obtain ⟨rest, hrest⟩ := h
  have hf : f = Fetched.ofBytes (encode i ++ rest) := congrArg Fetched.ofBytes hrest.symm
  rw [hf]
  exact decode_encode_append i rest

/-- The operands of a decoded instruction are the bytes after the opcode, used unchanged (R72, R73). -/
theorem operandBytes_prefix_of_decode {f : Fetched} {i : Instr} (h : decode f = .instruction i) :
    i.operandBytes <+: [f.a, f.b] := by
  have hop := (Machine.opcode_of_decode h).symm
  have none : ([] : List Byte) <+: [f.a, f.b] := List.nil_prefix
  have one : [f.a] <+: [f.a, f.b] := ⟨[f.b], rfl⟩
  have two : [f.a, f.b] <+: [f.a, f.b] := List.prefix_rfl
  cases i with
  | halt | ret => exact none
  | loadImmediate => cases h.symm.trans (decode_opLoadImmediate hop); exact two
  | printRegister => cases h.symm.trans (decode_opPrintRegister hop); exact one
  | multiply => cases h.symm.trans (decode_opMultiply hop); exact two
  | push => cases h.symm.trans (decode_opPush hop); exact one
  | pop => cases h.symm.trans (decode_opPop hop); exact one
  | call => cases h.symm.trans (decode_opCall hop); exact one
  | add => cases h.symm.trans (decode_opAdd hop); exact two
  | compare => cases h.symm.trans (decode_opCompare hop); exact two
  | jump => cases h.symm.trans (decode_opJump hop); exact one
  | jumpIfEqual => cases h.symm.trans (decode_opJumpIfEqual hop); exact one
  | jumpIfNotEqual => cases h.symm.trans (decode_opJumpIfNotEqual hop); exact one

theorem encode_prefix_of_decode {f : Fetched} {i : Instr} (h : decode f = .instruction i) : encode i <+: [f.op, f.a, f.b] :=
  List.cons_prefix_cons.mpr ⟨Machine.opcode_of_decode h, operandBytes_prefix_of_decode h⟩

/-- Settles O3: one direction is the round trip, the other reads opcode and operands off the decoder's answer. -/
theorem decodeExactlyTheEncoding : Obligations.DecodeExactlyTheEncoding := fun _ _ =>
  ⟨encode_prefix_of_decode, decode_of_encode_prefix⟩

theorem length_encode_le (i : Instr) : (encode i).length ≤ 3 := by
  cases i with
  | halt | ret => exact Nat.le_add_left 1 2
  | printRegister | push | pop | call | jump | jumpIfEqual | jumpIfNotEqual => exact Nat.le_add_left 2 1
  | loadImmediate | multiply | add | compare => exact le_rfl

end Sys2Proof

namespace Sys2Proof.Machine

/-! ### The step runs the instruction at `pc` -/

/-- Settles O10: every arm of `exec`, and so every step, answers a next state. -/
theorem everyStepHasNextState : Obligations.EveryStepHasNextState := ⟨safe_exec, safe_step⟩

theorem step_of_decode {s : State} {i : Instr} (hr : s.run = .running) (hd : decode s.fetch = .instruction i) :
    step s = exec i s := by
  rw [step_of_running hr, execFetched, hd]

theorem addr_ofNat_add (p : Addr) (k : Nat) : BitVec.ofNat 8 (p.toNat + k) = p + BitVec.ofNat 8 k := by
  rw [BitVec.ofNat_add, BitVec.ofNat_toNat, BitVec.setWidth_eq]

/-- The fetch reads three cells from `pc` on, at addresses mod 256 (R57, R101). -/
theorem State.readMem_eq_getElem_fetch (s : State) {k : Nat} (hk : k < 3) :
    s.readMem (BitVec.ofNat 8 (s.pc.toNat + k)) = [s.fetch.op, s.fetch.a, s.fetch.b][k] := by
  rw [addr_ofNat_add]
  match k, hk with
  | 0, _ => exact congrArg s.readMem (BitVec.add_zero s.pc)
  | 1, _ => rfl
  | 2, _ => rfl

/-- Settles O6: the addresses mod 256 are the ones the fetch reads. -/
theorem stepRunsDecodedInstruction : Obligations.StepRunsDecodedInstruction := by
  intro s i hr hd
  have hmod (k : Nat) : BitVec.ofNat 8 ((s.pc.toNat + k) % 256) = BitVec.ofNat 8 (s.pc.toNat + k) :=
    BitVec.eq_of_toNat_eq (Nat.mod_mod _ _)
  rw [hmod, hmod, addr_ofNat_add, addr_ofNat_add] at hd
  exact step_of_decode hr hd

/-- Settles O7: bytes equal to an encoding's, one by one, make the fetched bytes begin with it. -/
theorem stepRunsEncodingAtPc : Obligations.StepRunsEncodingAtPc := by
  intro s i hr hbytes
  have hbegin : encode i <+: [s.fetch.op, s.fetch.a, s.fetch.b] :=
    List.prefix_iff_getElem.mpr ⟨length_encode_le i, fun k hk =>
      (hbytes k hk).symm.trans (s.readMem_eq_getElem_fetch (hk.trans_le (length_encode_le i)))⟩
  exact step_of_decode hr (decode_of_encode_prefix hbegin)

/-- Settles O9: a stopped step is the identity, and nothing has been appended. -/
theorem stoppedEngineStandsStill : Obligations.StoppedEngineStandsStill := by
  intro s hstopped
  have hevents : stepEvents s s = [] := by simp [stepEvents]
  obtain hr | hr := hstopped
  · exact ⟨by rw [step, hr], hevents⟩
  · exact ⟨by rw [step, hr], hevents⟩

end Sys2Proof.Machine
end

section
/-! PROOFS. What a step can change, field by field, each read off the table of effects (`StepEffect`), and with it the rules of the
whole machine (10_state.md, 20_memory.md, 60_exceptions.md) and the invariant. -/

namespace Sys2Proof.Machine

variable {s t : State}

/-! ### Each field after an effect -/

/-- The status is kept, or a HALT or a fault has written it; these two do nothing else. -/
theorem StepEffect.status_cases (h : StepEffect s t) :
    StatusSame s t ∨ (s.fetch.op = opHalt ∧ t = s.halt) ∨
      ∃ i v, decode s.fetch = .instruction i ∧ v ∈ i.registerOperands ∧ (v = s.fetch.a ∨ v = s.fetch.b) ∧ 8 ≤ v.toNat ∧
        t = s.raiseRegisterIndexFault s.fetch.op v := by
  cases h with
  | halt hop => exact .inr (.inl ⟨hop, rfl⟩)
  | fault i v hd _ hmem hv h8 => exact .inr (.inr ⟨i, v, hd, hmem, hv, h8, rfl⟩)
  | jumpIfEqual | jumpIfNotEqual => exact .inl ⟨branchEffect_run .., branchEffect_fault ..⟩
  | _ => exact .inl ⟨rfl, rfl⟩

theorem StepEffect.fl_cases (h : StepEffect s t) :
    t.fl = s.fl ∨ t.fl = flagsLess ∨ t.fl = flagsGreater ∨ t.fl = flagsEqual := by
  cases h with
  | compare => exact .inr (compareFlags_eq_one_of_three _ _)
  | jumpIfEqual | jumpIfNotEqual => exact .inl (branchEffect_fl ..)
  | _ => exact .inl rfl

theorem StepEffect.mem_cases (h : StepEffect s t) :
    t.mem = s.mem ∨
      (s.fetch.op = opPush ∨ s.fetch.op = opCall) ∧ t.sp = s.sp - 1 ∧ ∃ v, t.mem = s.mem.write (s.sp - 1) v := by
  cases h with
  | push _ hop => exact .inr ⟨.inl hop, rfl, _, rfl⟩
  | call _ hop => exact .inr ⟨.inr hop, rfl, _, rfl⟩
  | jumpIfEqual | jumpIfNotEqual => exact .inl (branchEffect_mem ..)
  | _ => exact .inl rfl

theorem StepEffect.sp_cases (h : StepEffect s t) :
    t.sp = s.sp ∨ ((s.fetch.op = opPush ∨ s.fetch.op = opCall) ∧ t.sp = s.sp - 1) ∨
      (s.fetch.op = opPop ∨ s.fetch.op = opRet) ∧ t.sp = s.sp + 1 := by
  cases h with
  | push _ hop => exact .inr (.inl ⟨.inl hop, rfl⟩)
  | call _ hop => exact .inr (.inl ⟨.inr hop, rfl⟩)
  | pop _ hop => exact .inr (.inr ⟨.inl hop, rfl⟩)
  | ret hop => exact .inr (.inr ⟨.inr hop, rfl⟩)
  | jumpIfEqual | jumpIfNotEqual => exact .inl (branchEffect_sp ..)
  | _ => exact .inl rfl

theorem State.readReg_writeReg_eq_or (s : State) (d r : RegIndex) (v : Byte) :
    (s.writeReg d v).readReg r = s.readReg r ∨ d.val = r.val := by
  by_cases h : r = d
  · exact .inr (congrArg Fin.val h.symm)
  · exact .inl (s.readReg_writeReg_other d r v h)

theorem StepEffect.readReg_cases (h : StepEffect s t) (r : RegIndex) :
    t.readReg r = s.readReg r ∨
      s.fetch.op ∈ [opLoadImmediate, opMultiply, opPop, opAdd] ∧ s.fetch.a.toNat = r.val := by
  have written {v : Byte} (ha : s.fetch.a.toNat < 8) (hop : s.fetch.op ∈ [opLoadImmediate, opMultiply, opPop, opAdd]) :
      (s.writeReg ⟨_, ha⟩ v).readReg r = s.readReg r ∨
        s.fetch.op ∈ [opLoadImmediate, opMultiply, opPop, opAdd] ∧ s.fetch.a.toNat = r.val :=
    (s.readReg_writeReg_eq_or ⟨_, ha⟩ r v).imp_right (And.intro hop)
  cases h with
  | loadImmediate ha hop => exact written ha (List.mem_cons.mpr (.inl hop))
  | multiply ha _ hop => exact written ha (hop ▸ .tail _ (.head _))
  | pop ha hop => exact written ha (hop ▸ .tail _ (.tail _ (.head _)))
  | add ha _ hop => exact written ha (hop ▸ .tail _ (.tail _ (.tail _ (.head _))))
  | jumpIfEqual | jumpIfNotEqual => exact .inl (branchEffect_readReg ..)
  | _ => exact .inl rfl

/-- The streams are kept, or one of them has grown by one entry: by PRINT-REGISTER or by the report of R111. -/
theorem StepEffect.streams_cases (h : StepEffect s t) :
    StreamsSame s t ∨
      (s.fetch.op = opPrintRegister ∧ ∃ ha : s.fetch.a.toNat < 8,
        t.out = s.out ++ [s.readReg ⟨_, ha⟩] ∧ t.diag = s.diag) ∨
      (s.fetch.op ∉ specOpcodes ∧ t.out = s.out ∧ t.diag = s.diag ++ [⟨s.pc, s.fetch.op⟩]) := by
  cases h with
  | printRegister ha hop => exact .inr (.inl ⟨hop, ha, rfl, rfl⟩)
  | unrecognized hd =>
    refine .inr (.inr ⟨fun hop => ?_, rfl, rfl⟩)
    obtain ⟨i, hi, -⟩ := decode_of_mem_specOpcodes hop
    exact nomatch hd.symm.trans hi
  | jumpIfEqual | jumpIfNotEqual => exact .inl ⟨branchEffect_out .., branchEffect_diag ..⟩
  | _ => exact .inl ⟨rfl, rfl⟩

/-! ### The rules of the whole machine -/

/-- A step that changes anything was taken by a running engine (R100), so it is one of the table's effects. -/
theorem running_effect_of_ne {α : Type} (field : State → α) (hs : step s = .next t) (hne : field t ≠ field s) :
    s.run = .running ∧ StepEffect s t := by
  have hr : s.run = .running := by
    by_contra hr
    exact hne (congrArg field (step_of_not_running hr hs))
  exact ⟨hr, step_effect hr hs⟩

/-- Settles O42: the one effect on a register is a `writeReg` of the first operand's. -/
theorem onlyFourOpcodesWriteARegister : Obligations.OnlyFourOpcodesWriteARegister := by
  intro s t r hs hne
  obtain ⟨hr, he⟩ := running_effect_of_ne (·.readReg r) hs hne
  exact ⟨hr, (he.readReg_cases r).resolve_left hne⟩

theorem addr_sub_one_toNat (p : Addr) : (p - 1).toNat = (p.toNat + 255) % 256 := by
  rw [Nat.add_comm]
  exact BitVec.toNat_sub p 1

/-- Settles O43: a memory that reads differently is one that a push has written, and a write changes one cell. -/
theorem onlyPushAndCallWriteMemory : Obligations.OnlyPushAndCallWriteMemory := by
  intro s t c hs hne
  obtain ⟨hr, he⟩ := running_effect_of_ne (·.readMem c) hs hne
  obtain hmem | ⟨hop, hsp, v, hmem⟩ := he.mem_cases
  · exact absurd (congrArg (Memory.read · c) hmem) hne
  · obtain rfl : c = s.sp - 1 := by
      by_contra hc
      exact hne ((congrArg (Memory.read · c) hmem).trans (Memory.read_write_other s.mem _ c v hc))
    exact ⟨hr, List.mem_pair.mpr hop, addr_sub_one_toNat s.sp, hsp⟩

/-- Settles O44: `sp` is moved by a push, or by the second half of a pop. -/
theorem onlyStackInstructionsMoveSp : Obligations.OnlyStackInstructionsMoveSp := by
  intro s t hs hne
  obtain ⟨hr, he⟩ := running_effect_of_ne State.sp hs hne
  obtain ⟨hop, hsp⟩ | ⟨hop, hsp⟩ := he.sp_cases.resolve_left hne
  · exact ⟨hr, .inl ⟨List.mem_pair.mpr hop, hsp ▸ addr_sub_one_toNat s.sp⟩⟩
  · exact ⟨hr, .inr ⟨List.mem_pair.mpr hop, hsp ▸ BitVec.toNat_add s.sp 1⟩⟩

theorem stepEvents_of_appended {out' : List Byte} {diag' : List DiagEvent} (ho : t.out = s.out ++ out')
    (hd : t.diag = s.diag ++ diag') : stepEvents s t = out'.map .out ++ diag'.map .diag := by
  rw [stepEvents, ho, hd, List.drop_left, List.drop_left]

theorem stepEvents_of_streamsSame (h : StreamsSame s t) : stepEvents s t = [] :=
  stepEvents_of_appended (out' := []) (diag' := []) (by rw [h.1, List.append_nil]) (by rw [h.2, List.append_nil])

/-- Settles O45: the three ways the streams can be after a step are the three clauses. -/
theorem atMostOneEventPerStep : Obligations.AtMostOneEventPerStep := by
  intro s t hs
  have quiet (h : StreamsSame s t) : t.out = s.out ∧ t.diag = s.diag ∧ stepEvents s t = [] :=
    ⟨h.1, h.2, stepEvents_of_streamsSame h⟩
  by_cases hr : s.run = .running
  · obtain hsame | ⟨hop, ha, hout, hdiag⟩ | ⟨hop, hout, hdiag⟩ := (step_effect hr hs).streams_cases
    · exact .inl (quiet hsame)
    · exact .inr (.inl ⟨hop, hdiag, ha, hout, stepEvents_of_appended hout (diag' := []) (by rw [hdiag, List.append_nil])⟩)
    · exact .inr (.inr ⟨hop, hout, hdiag, stepEvents_of_appended (out' := []) (by rw [hout, List.append_nil]) hdiag⟩)
  · obtain rfl := step_of_not_running hr hs
    exact .inl (quiet ⟨rfl, rfl⟩)

/-- Settles O36: the effects that do not fault leave the engine running or halted. -/
theorem faultIsPrecise : Obligations.FaultIsPrecise := by
  intro s t hr hs hfaulted
  obtain ⟨hrun, -⟩ | ⟨-, rfl⟩ | ⟨_, v, -, -, hv, h8, rfl⟩ := (step_effect hr hs).status_cases
  · exact nomatch (hrun.trans hr).symm.trans hfaulted
  · exact nomatch hfaulted
  · exact ⟨v, h8, hv, rfl⟩

/-! ### The invariant -/

theorem inv_reset : Inv State.reset where
  memory := rfl
  flags := .inl rfl
  running _ := rfl
  halted := nofun
  faulted := nofun

theorem StepEffect.wf_mem (h : StepEffect s t) (hm : s.mem.wf = true) : t.mem.wf = true := by
  obtain he | ⟨-, -, v, he⟩ := h.mem_cases
  · exact he ▸ hm
  · exact he ▸ Memory.wf_write _ v hm

theorem StepEffect.inv (h : StepEffect s t) (hr : s.run = .running) (hinv : Inv s) : Inv t := by
  have hmem := h.wf_mem hinv.memory
  have hfl : t.fl = Config.flReset ∨ t.fl = flagsEqual ∨ t.fl = flagsGreater ∨ t.fl = flagsLess := by
    obtain hfl | hfl | hfl | hfl := h.fl_cases
    · exact hfl ▸ hinv.flags
    · exact .inr (.inr (.inr hfl))
    · exact .inr (.inr (.inl hfl))
    · exact .inr (.inl hfl)
  obtain ⟨hrun, hfault⟩ | ⟨hop, rfl⟩ | ⟨_, v, -, -, hv, h8, rfl⟩ := h.status_cases
  · have hrunning : t.run = .running := hrun.trans hr
    exact ⟨hmem, hfl, fun _ => hfault.trans (hinv.running hr), fun hh => (nomatch hrunning.symm.trans hh),
      fun hf => nomatch hrunning.symm.trans hf⟩
  · exact ⟨hmem, hfl, nofun, fun _ => ⟨hop, hinv.running hr⟩, nofun⟩
  · exact ⟨hmem, hfl, nofun, nofun, fun _ => ⟨v, rfl, h8, hv⟩⟩

/-- Settles O54: a stopped engine keeps its state; for a running one the invariant is kept by each of `StepEffect`. -/
theorem stepKeepsInvariant : Obligations.StepKeepsInvariant := by
  intro s t hinv hs
  by_cases hr : s.run = .running
  · exact (step_effect hr hs).inv hr hinv
  · exact step_of_not_running hr hs ▸ hinv

/-! ### The invariant of the block, and reset -/

theorem blockInv_reset : BlockInv Block.reset := ⟨inv_reset, fun _ => rfl⟩

/-- Settles O53: in the reset state the clauses on stopped engines are idle. -/
theorem invariantHoldsAtReset : Obligations.InvariantHoldsAtReset := ⟨inv_reset, blockInv_reset⟩

/-- Settles O48: `State.reset` written out, its registers and its memory read. -/
theorem resetStateAsSpecified : Obligations.ResetStateAsSpecified :=
  ⟨fun _ => rfl, State.readReg_reset, rfl, rfl, rfl, State.readMem_reset, rfl, rfl, rfl, rfl⟩

/-- A write to memory keeps the invariant of a running engine: only the clauses on stopped engines look at the bytes. -/
theorem inv_writeMem (hinv : Inv s) (hr : s.run = .running) (addr : Addr) (data : Byte) : Inv (s.writeMem addr data) where
  memory := Memory.wf_write addr data hinv.memory
  flags := hinv.flags
  running := hinv.running
  halted hh := nomatch hr.symm.trans hh
  faulted hf := nomatch hr.symm.trans hf

theorem Block.move_step {b : Block} (h : step b.engine = .next t) : b.move .step = some ⟨t, false⟩ := by
  rw [Block.move, h]

theorem Block.move_load {b : Block} (h : b.loading = true) (addr : Addr) (data : Byte) :
    b.move (.load addr data) = some { b with engine := b.engine.writeMem addr data } := if_pos h

theorem Block.move_load_closed {b : Block} (h : b.loading = false) (addr : Addr) (data : Byte) :
    b.move (.load addr data) = none := by
  simp [Block.move, h]

theorem blockInv_load {b : Block} (hinv : BlockInv b) (hl : b.loading = true) (addr : Addr) (data : Byte) :
    BlockInv { b with engine := b.engine.writeMem addr data } where
  engine := inv_writeMem hinv.engine (congrArg State.run (hinv.loadPhase hl)) addr data
  loadPhase _ := congrArg (State.writeMem · addr data) (hinv.loadPhase hl)

theorem blockInv_step {b : Block} (hinv : BlockInv b) (h : step b.engine = .next t) : BlockInv ⟨t, false⟩ where
  engine := stepKeepsInvariant _ _ hinv.engine h
  loadPhase := nofun

/-- Settles O55: the three moves, one lemma each. -/
theorem hostMovesKeepBlockInvariant : Obligations.HostMovesKeepBlockInvariant := by
  intro b c m hinv hmove
  cases m with
  | reset =>
    obtain rfl : Block.reset = c := Option.some.inj hmove
    exact blockInv_reset
  | load addr data =>
    cases hl : b.loading with
    | false => exact nomatch (Block.move_load_closed hl addr data).symm.trans hmove
    | true =>
      obtain rfl := Option.some.inj ((Block.move_load hl addr data).symm.trans hmove)
      exact blockInv_load hinv hl addr data
  | step =>
    obtain ⟨t, ht⟩ := safe_step b.engine
    obtain rfl := Option.some.inj ((Block.move_step ht).symm.trans hmove)
    exact blockInv_step hinv ht

end Sys2Proof.Machine
end

section
/-! PROOFS. The instructions one by one (41_arithmetic.md to 45_compare_branch.md): each one's next state when its operands name
registers, its result, and what it leaves unchanged. -/

namespace Sys2Proof.Machine

/-! ### The instructions, their operands validated -/

theorem exec_halt (s : State) : exec .halt s = .next s.halt := rfl

section

variable {a b : Byte} {s : State} (ha : a.toNat < 8) (hb : b.toNat < 8)

include ha

theorem exec_loadImmediate_of_lt (imm : Byte) :
    exec (.loadImmediate a imm) s = .next ((s.writeReg ⟨a.toNat, ha⟩ imm).advance 3) := withReg_of_lt ha

theorem exec_printRegister_of_lt :
    exec (.printRegister a) s = .next ((s.emit (s.readReg ⟨a.toNat, ha⟩)).advance 2) := withReg_of_lt ha

theorem exec_push_of_lt :
    exec (.push a) s = .next ((s.pushByte (s.readReg ⟨a.toNat, ha⟩)).advance 2) := withReg_of_lt ha

theorem exec_pop_of_lt :
    exec (.pop a) s = .next ((s.writeReg ⟨a.toNat, ha⟩ (s.readMem s.sp)).dropTop.advance 2) := withReg_of_lt ha

include hb

theorem exec_add_of_lt :
    exec (.add a b) s = .next (aluEffect .add s ⟨a.toNat, ha⟩ ⟨b.toNat, hb⟩) := withRegs_of_lt ha hb

theorem exec_multiply_of_lt :
    exec (.multiply a b) s = .next (aluEffect .multiply s ⟨a.toNat, ha⟩ ⟨b.toNat, hb⟩) := withRegs_of_lt ha hb

theorem exec_compare_of_lt :
    exec (.compare a b) s =
      .next ((s.setFl (compareFlags (s.readReg ⟨a.toNat, ha⟩) (s.readReg ⟨b.toNat, hb⟩))).advance 3) :=
  withRegs_of_lt ha hb

end

/-! ### Frames -/

theorem regsSameExcept_writeReg (s : State) (d : RegIndex) (v : Byte) : RegsSameExcept d s (s.writeReg d v) :=
  fun r hr => s.readReg_writeReg_other d r v hr

theorem memSameExcept_pushByte (s : State) (v : Byte) : MemSameExcept s.pushAddr s (s.pushByte v) :=
  fun c hc => s.readMem_pushByte_other c v hc

theorem pushAddr_toNat (s : State) : s.pushAddr.toNat = (s.sp.toNat + 255) % 256 := addr_sub_one_toNat s.sp

/-! ### Arithmetic -/

theorem aluEffect_readReg (op : AluOp) (s : State) (ia ib : RegIndex) :
    (aluEffect op s ia ib).readReg ia = alu op (s.readReg ia) (s.readReg ib) := s.readReg_writeReg_same ia _

theorem aluEffect_frame (op : AluOp) (s : State) (ia ib : RegIndex) :
    RegsSameExcept ia s (aluEffect op s ia ib) ∧ (aluEffect op s ia ib).pc.toNat = (s.pc.toNat + 3) % 256 ∧
      (aluEffect op s ia ib).sp = s.sp ∧ (aluEffect op s ia ib).fl = s.fl ∧ MemSame s (aluEffect op s ia ib) ∧
      StatusSame s (aluEffect op s ia ib) ∧ StreamsSame s (aluEffect op s ia ib) :=
  ⟨regsSameExcept_writeReg s ia _, BitVec.toNat_add s.pc 3, rfl, rfl, fun _ => rfl, ⟨rfl, rfl⟩, rfl, rfl⟩

/-- Settles O12: `aluEffect` with the sum. -/
theorem addResultAndFrame : Obligations.AddResultAndFrame := fun _ _ s ha hb =>
  ⟨_, exec_add_of_lt ha hb, by rw [aluEffect_readReg, alu_add_toNat], aluEffect_frame .add s _ _⟩

/-- Settles O13: `aluEffect` with the product. -/
theorem multiplyResultAndFrame : Obligations.MultiplyResultAndFrame := fun _ _ s ha hb =>
  ⟨_, exec_multiply_of_lt ha hb, by rw [aluEffect_readReg, alu_multiply_toNat], aluEffect_frame .multiply s _ _⟩

/-- The product the ALU keeps is the low byte of the exact 16-bit one: two bytes multiply to less than `2 ^ 16`. -/
theorem alu_multiply_eq_low_byte (p q : Byte) : alu .multiply p q = (p.zeroExtend 16 * q.zeroExtend 16).extractLsb' 0 8 := by
  refine BitVec.eq_of_toNat_eq ?_
  have hfit : p.toNat * q.toNat < 2 ^ 16 := (Nat.mul_lt_mul'' p.isLt q.isLt).trans_eq (pow_add 2 8 8).symm
  have hp : p.toNat < 2 ^ 16 := p.isLt.trans (by decide)
  have hq : q.toNat < 2 ^ 16 := q.isLt.trans (by decide)
  rw [alu_multiply_toNat, BitVec.extractLsb'_toNat, BitVec.toNat_mul, BitVec.toNat_setWidth, BitVec.toNat_setWidth,
    Nat.mod_eq_of_lt hp, Nat.mod_eq_of_lt hq, Nat.mod_eq_of_lt hfit, Nat.shiftRight_zero]

/-- Settles O14: the result is the ALU's, and `aluEffect` writes no flag, status or stream. -/
theorem arithmeticWrapsUnsignalled : Obligations.ArithmeticWrapsUnsignalled := by
  rintro _ _ a b s ha hb rfl rfl
  obtain ⟨-, -, -, hfl, -, hstatus, hstreams⟩ := aluEffect_frame .add s ⟨a.toNat, ha⟩ ⟨b.toNat, hb⟩
  obtain ⟨-, -, -, hfl', -, hstatus', hstreams'⟩ := aluEffect_frame .multiply s ⟨a.toNat, ha⟩ ⟨b.toNat, hb⟩
  exact ⟨_, _, exec_add_of_lt ha hb, exec_multiply_of_lt ha hb, by rw [aluEffect_readReg, alu_add_toNat],
    by rw [aluEffect_readReg, alu_multiply_eq_low_byte], by rw [aluEffect_readReg, alu_multiply_toNat],
    hfl, hfl', hstatus, hstatus', hstreams, hstreams'⟩

/-! ### Data movement -/

/-- Settles O15: a `writeReg` of the immediate and an advance by 3. -/
theorem loadImmediateResultAndFrame : Obligations.LoadImmediateResultAndFrame := fun _ imm s ha =>
  ⟨_, exec_loadImmediate_of_lt ha imm, s.readReg_writeReg_same _ imm, regsSameExcept_writeReg s _ imm,
    BitVec.toNat_add s.pc 3, rfl, rfl, fun _ => rfl, ⟨rfl, rfl⟩, rfl, rfl⟩

theorem standardOutput_emit (s : State) (v : Byte) : standardOutput (s.emit v) = standardOutput s ++ printLine v := by
  simp [standardOutput]

theorem stepEvents_emit (s : State) (v : Byte) : stepEvents s (s.emit v) = [.out v] :=
  stepEvents_of_appended (out' := [v]) (diag' := []) rfl (List.append_nil _).symm

/-- Settles O16: an `emit` of the register and an advance by 2. -/
theorem printRegisterResultAndFrame : Obligations.PrintRegisterResultAndFrame := fun _ s ha =>
  ⟨_, exec_printRegister_of_lt ha, rfl, stepEvents_emit s _, standardOutput_emit s _, fun _ => rfl,
    BitVec.toNat_add s.pc 2, rfl, rfl, fun _ => rfl, ⟨rfl, rfl⟩, rfl⟩

/-! ### The stack -/

/-- Settles O17: a `pushByte` of the register and an advance by 2. -/
theorem pushResultAndFrame : Obligations.PushResultAndFrame := fun _ s ha =>
  ⟨_, exec_push_of_lt ha, rfl, pushAddr_toNat s, s.readMem_pushByte_same _, memSameExcept_pushByte s _, fun _ => rfl,
    BitVec.toNat_add s.pc 2, rfl, ⟨rfl, rfl⟩, rfl, rfl⟩

/-- Settles O18: a `writeReg` of the byte at `sp`, a `dropTop` and an advance by 2. -/
theorem popResultAndFrame : Obligations.PopResultAndFrame := fun _ s ha =>
  ⟨_, exec_pop_of_lt ha, s.readReg_writeReg_same _ _, regsSameExcept_writeReg s _ _, BitVec.toNat_add s.sp 1,
    BitVec.toNat_add s.pc 2, rfl, fun _ => rfl, ⟨rfl, rfl⟩, rfl, rfl⟩

/-- Settles O27: the POP reads the cell at the new `sp`, which the PUSH has just written. -/
theorem pushThenPopRoundTrip : Obligations.PushThenPopRoundTrip := by
  intro a b s ha hb
  refine ⟨_, _, exec_push_of_lt ha, exec_pop_of_lt hb, ?value, ?sp, ?registers⟩
  case value => exact (State.readReg_writeReg_same ..).trans (s.readMem_pushByte_same _)
  case sp => exact BitVec.sub_add_cancel s.sp 1
  case registers => exact regsSameExcept_writeReg _ _ _

/-! ### Control transfer -/

/-- Settles O19: a `pushByte` of the return address and a `setPc` to the register. -/
theorem callResultAndFrame : Obligations.CallResultAndFrame := fun _ s ha =>
  ⟨_, exec_call_of_lt ha, rfl, rfl, pushAddr_toNat s,
    (congrArg BitVec.toNat (s.readMem_pushByte_same _)).trans (BitVec.toNat_add s.pc 2),
    memSameExcept_pushByte s _, fun _ => rfl, rfl, ⟨rfl, rfl⟩, rfl, rfl⟩

/-- Settles O20: a `dropTop` and a `setPc` to the byte at `sp`. -/
theorem returnResultAndFrame : Obligations.ReturnResultAndFrame := fun s =>
  ⟨_, exec_ret s, rfl, BitVec.toNat_add s.sp 1, fun _ => rfl, rfl, fun _ => rfl, ⟨rfl, rfl⟩, rfl, rfl⟩

/-- Settles O21: a `setPc` and nothing else. -/
theorem jumpResultAndFrame : Obligations.JumpResultAndFrame := fun _ _ ha =>
  ⟨_, exec_jump_of_lt ha, rfl, rfl, fun _ => rfl, rfl, fun _ => rfl, ⟨rfl, rfl⟩, rfl, rfl⟩

/-- Settles O28: the RETURN reads the cell the CALL wrote, wherever the engine has been between the two. -/
theorem callThenReturnSymmetry : Obligations.CallThenReturnSymmetry := by
  intro a s ha
  refine ⟨_, exec_call_of_lt ha, fun u hsp hcell => ⟨_, exec_ret u, ?pc, ?sp⟩⟩
  case pc =>
    have htop : u.readMem u.sp = s.returnAddress := hcell.trans (s.readMem_pushByte_same _)
    exact (congrArg BitVec.toNat htop).trans (BitVec.toNat_add s.pc 2)
  case sp => exact (congrArg (· + 1) hsp).trans (BitVec.sub_add_cancel s.sp 1)

/-! ### Comparison and branch -/

theorem compareFlags_of_eq {p q : Byte} (h : p.toNat = q.toNat) : compareFlags p q = flagsEqual :=
  if_pos (BitVec.eq_of_toNat_eq h)

theorem compareFlags_of_gt {p q : Byte} (h : p.toNat > q.toNat) : compareFlags p q = flagsGreater :=
  (if_neg fun e => h.ne' (congrArg BitVec.toNat e)).trans (if_pos h)

theorem compareFlags_of_lt {p q : Byte} (h : p.toNat < q.toNat) : compareFlags p q = flagsLess :=
  (if_neg fun e => h.ne (congrArg BitVec.toNat e)).trans (if_neg (Nat.lt_asymm h))

/-- Settles O22: a `setFl` of `compareFlags` and an advance by 3. -/
theorem compareResultAndFrame : Obligations.CompareResultAndFrame := fun _ _ s ha hb =>
  ⟨_, exec_compare_of_lt ha hb, compareFlags_of_eq, compareFlags_of_gt, compareFlags_of_lt, fun _ => rfl,
    BitVec.toNat_add s.pc 3, rfl, fun _ => rfl, ⟨rfl, rfl⟩, rfl, rfl⟩

theorem branchEffect_frame (k : Bool) (s : State) (r : RegIndex) :
    (branchEffect k s r).sp = s.sp ∧ RegsSame s (branchEffect k s r) ∧ (branchEffect k s r).fl = s.fl ∧
      MemSame s (branchEffect k s r) ∧ StatusSame s (branchEffect k s r) ∧ StreamsSame s (branchEffect k s r) :=
  ⟨branchEffect_sp .., branchEffect_readReg k s r, branchEffect_fl .., branchEffect_readMem k s r,
    ⟨branchEffect_run .., branchEffect_fault ..⟩, branchEffect_out .., branchEffect_diag ..⟩

theorem branchEffect_pc_taken (s : State) (r : RegIndex) {k : Bool} (h : k = true) :
    (branchEffect k s r).pc = s.readReg r := by rw [branchEffect_pc, if_pos h]

theorem branchEffect_pc_untaken (s : State) (r : RegIndex) {k : Bool} (h : k = false) :
    (branchEffect k s r).pc.toNat = (s.pc.toNat + 2) % 256 := by
  subst h
  exact BitVec.toNat_add s.pc 2

theorem equalBit_of_odd {s : State} (h : s.fl.toNat % 2 = 1) : s.equalBit = true := by simp [State.equalBit_eq, h]

theorem equalBit_of_even {s : State} (h : s.fl.toNat % 2 = 0) : s.equalBit = false := by simp [State.equalBit_eq, h]

/-- Settles O23: `branchEffect` on the E bit. -/
theorem jumpIfEqualResultAndFrame : Obligations.JumpIfEqualResultAndFrame := fun _ s ha =>
  ⟨_, exec_jumpIfEqual_of_lt ha, fun hE => branchEffect_pc_taken s _ (equalBit_of_odd hE),
    fun hE => branchEffect_pc_untaken s _ (equalBit_of_even hE), branchEffect_frame _ s _⟩

/-- Settles O24: `branchEffect` on the E bit negated. -/
theorem jumpIfNotEqualResultAndFrame : Obligations.JumpIfNotEqualResultAndFrame := fun _ s ha =>
  ⟨_, exec_jumpIfNotEqual_of_lt ha, fun hE => branchEffect_pc_taken s _ (congrArg (! ·) (equalBit_of_even hE)),
    fun hE => branchEffect_pc_untaken s _ (congrArg (! ·) (equalBit_of_odd hE)), branchEffect_frame _ s _⟩

/-- Settles O29: the E bit decides the one branch one way and the other the other way. -/
theorem exactlyOneBranchTaken : Obligations.ExactlyOneBranchTaken := by
  intro a s ha
  refine ⟨_, _, exec_jumpIfEqual_of_lt ha, exec_jumpIfNotEqual_of_lt ha, ?_⟩
  cases hE : s.equalBit with
  | true => exact .inl ⟨branchEffect_pc_taken s _ rfl, branchEffect_pc_untaken s _ rfl⟩
  | false => exact .inr ⟨branchEffect_pc_taken s _ rfl, branchEffect_pc_untaken s _ rfl⟩

/-! ### The engine's own effects -/

/-- Settles O25: `State.halt` writes the run state alone. -/
theorem haltResultAndFrame : Obligations.HaltResultAndFrame := fun s =>
  ⟨_, exec_halt s, rfl, rfl, rfl, rfl, rfl, fun _ => rfl, fun _ => rfl, rfl, rfl⟩

theorem step_unrecognized {s : State} (hr : s.run = .running) (hop : s.readMem s.pc ∉ specOpcodes) :
    step s = .next ((s.report s.pc (s.readMem s.pc)).advance 1) := by
  rw [step_of_running hr, execFetched, decode_of_not_mem_specOpcodes (f := s.fetch) hop]
  rfl

/-- Settles O8: a `report` and an advance by 1. -/
theorem unrecognizedOpcodeReportedAndSkipped : Obligations.UnrecognizedOpcodeReportedAndSkipped := fun s hr hop =>
  ⟨_, step_unrecognized hr hop, rfl, BitVec.toNat_add s.pc 1, fun _ => rfl, rfl, rfl, fun _ => rfl, ⟨rfl, rfl⟩, rfl⟩

end Sys2Proof.Machine
end

section
/-! PROOFS. When an instruction faults and when the engine stops (60_exceptions.md R172, R173; 10_state.md R38), and a step of a
given opcode: the next `pc` (R28), the flags after a COMPARE (R160), a store and the next fetch (20_memory.md R64). -/

namespace Sys2Proof

/-! ### Bad operands -/

/-- The first register operand that names no register (R75). -/
def Instr.firstBadOperand (i : Instr) : Option Byte := i.registerOperands.find? fun v => decide (8 ≤ v.toNat)

theorem Instr.exists_firstBadOperand {i : Instr} (h : i.wellFormed = false) : ∃ v, i.firstBadOperand = some v := by
  obtain ⟨v, hmem, hbad⟩ := List.all_eq_false.mp h
  have h8 : decide (8 ≤ v.toNat) = true := by simpa [namesRegister] using hbad
  exact Option.isSome_iff_exists.mp (List.find?_isSome.mpr ⟨v, hmem, h8⟩)

theorem Instr.wellFormed_eq_false_of_mem {i : Instr} {v : Byte} (hmem : v ∈ i.registerOperands) (h8 : 8 ≤ v.toNat) :
    i.wellFormed = false :=
  List.all_eq_false.mpr ⟨v, hmem, by simp [namesRegister, h8]⟩

end Sys2Proof

namespace Sys2Proof.Machine

theorem withReg_of_find {op a v : Byte} {s : State} {effect : RegIndex → State}
    (h : [a].find? (fun v => decide (8 ≤ v.toNat)) = some v) :
    withReg op a s effect = .next (s.raiseRegisterIndexFault op v) := by
  rcases Nat.lt_or_ge a.toNat 8 with ha | ha
  · simp [Nat.not_le.mpr ha] at h
  · obtain rfl : a = v := by simpa [List.find?_cons, ha] using h
    exact withReg_of_ge ha

theorem withRegs_of_find {op a b v : Byte} {s : State} {effect : RegIndex → RegIndex → State}
    (h : [a, b].find? (fun v => decide (8 ≤ v.toNat)) = some v) :
    withRegs op a b s effect = .next (s.raiseRegisterIndexFault op v) := by
  rcases Nat.lt_or_ge a.toNat 8 with ha | ha
  · rcases Nat.lt_or_ge b.toNat 8 with hb | hb
    · simp [Nat.not_le.mpr ha, Nat.not_le.mpr hb] at h
    · obtain rfl : b = v := by simpa [List.find?_cons, Nat.not_le.mpr ha, hb] using h
      exact withRegs_of_second_ge ha hb
  · obtain rfl : a = v := by simpa [List.find?_cons, ha] using h
    exact withRegs_of_first_ge ha

theorem exec_of_firstBadOperand {i : Instr} {s : State} {v : Byte} (h : i.firstBadOperand = some v) :
    exec i s = .next (s.raiseRegisterIndexFault i.opcode v) := by
  cases i with
  | halt | ret => exact nomatch h
  | multiply | add | compare => exact withRegs_of_find h
  | loadImmediate | printRegister | push | pop | call | jump | jumpIfEqual | jumpIfNotEqual => exact withReg_of_find h

/-! ### Good operands -/

theorem withReg_statusSame {op a : Byte} {s : State} {effect : RegIndex → State} (h : [a].all namesRegister = true)
    (heffect : ∀ r, StatusSame s (effect r)) : ∃ t, withReg op a s effect = .next t ∧ StatusSame s t := by
  have ha : a.toNat < 8 := by simpa [namesRegister] using h
  exact ⟨_, withReg_of_lt ha, heffect _⟩

theorem withRegs_statusSame {op a b : Byte} {s : State} {effect : RegIndex → RegIndex → State}
    (h : [a, b].all namesRegister = true) (heffect : ∀ r q, StatusSame s (effect r q)) :
    ∃ t, withRegs op a b s effect = .next t ∧ StatusSame s t := by
  obtain ⟨ha, hb⟩ : a.toNat < 8 ∧ b.toNat < 8 := by simpa [namesRegister] using h
  exact ⟨_, withRegs_of_lt ha hb, heffect _ _⟩

theorem exec_statusSame_of_wellFormed {i : Instr} {s : State} (h : i.wellFormed = true) (hne : i ≠ .halt) :
    ∃ t, exec i s = .next t ∧ StatusSame s t := by
  cases i with
  | halt => exact absurd rfl hne
  | ret => exact ⟨_, exec_ret s, rfl, rfl⟩
  | multiply | add | compare => exact withRegs_statusSame h fun _ _ => ⟨rfl, rfl⟩
  | jumpIfEqual | jumpIfNotEqual => exact withReg_statusSame h fun _ => ⟨branchEffect_run .., branchEffect_fault ..⟩
  | loadImmediate | printRegister | push | pop | call | jump => exact withReg_statusSame h fun _ => ⟨rfl, rfl⟩

/-- Settles O35: the operand forms raise the fault on the first bad operand, and with none only HALT writes the status. -/
theorem faultExactlyOnFirstBadOperand : Obligations.FaultExactlyOnFirstBadOperand := by
  refine fun i s => ⟨fun v hv => ?bad, fun hw => ?good⟩
  case bad =>
    exact ⟨_, exec_of_firstBadOperand hv, rfl, rfl, fun _ => rfl, rfl, rfl, rfl, fun _ => rfl, rfl, rfl⟩
  case good =>
    by_cases hi : i = .halt
    · subst hi
      exact ⟨_, exec_halt s, rfl, fun hne => absurd rfl hne, fun _ => rfl⟩
    · obtain ⟨t, ht, hrun, hfault⟩ := exec_statusSame_of_wellFormed (s := s) hw hi
      exact ⟨t, ht, hfault, fun _ => hrun, fun hhalt => absurd hhalt hi⟩

/-! ### A step of a given instruction -/

section

variable {s t : State} (hr : s.run = .running)
include hr

theorem exec_of_step {i : Instr} (hs : step s = .next t) (hd : decode s.fetch = .instruction i) : exec i s = .next t :=
  (step_of_decode hr hd).symm.trans hs

theorem step_push (hop : s.fetch.op = opPush) (ha : s.fetch.a.toNat < 8) :
    step s = .next ((s.pushByte (s.readReg ⟨_, ha⟩)).advance 2) :=
  (step_of_decode hr (decode_opPush hop)).trans (exec_push_of_lt ha)

theorem step_call (hop : s.fetch.op = opCall) (ha : s.fetch.a.toNat < 8) :
    step s = .next ((s.pushByte s.returnAddress).setPc (s.readReg ⟨_, ha⟩)) :=
  (step_of_decode hr (decode_opCall hop)).trans (exec_call_of_lt ha)

theorem step_call_bad (hop : s.fetch.op = opCall) (ha : 8 ≤ s.fetch.a.toNat) :
    step s = .next (s.raiseRegisterIndexFault opCall s.fetch.a) :=
  (step_of_decode hr (decode_opCall hop)).trans (withReg_of_ge ha)

theorem step_jump (hop : s.fetch.op = opJump) (ha : s.fetch.a.toNat < 8) :
    step s = .next (s.setPc (s.readReg ⟨_, ha⟩)) :=
  (step_of_decode hr (decode_opJump hop)).trans (exec_jump_of_lt ha)

end

/-- Settles O37: HALT and the fault are the effects that leave Running, and their opcode or operands bring them about. -/
theorem onlyHaltHalts : Obligations.OnlyHaltHalts := by
  intro s t hr hs
  have hcases := (step_effect hr hs).status_cases
  refine ⟨⟨fun hhalted => ?_, fun hop => ?_⟩, fun hfaulted => ?_, fun ⟨i, hd, hw⟩ => ?_⟩
  · obtain ⟨hrun, -⟩ | ⟨hop, -⟩ | ⟨_, _, -, -, -, -, rfl⟩ := hcases
    · exact nomatch (hrun.trans hr).symm.trans hhalted
    · exact hop
    · exact nomatch hhalted
  · cases exec_of_step hr hs (decode_opHalt hop)
    rfl
  · obtain ⟨hrun, -⟩ | ⟨-, rfl⟩ | ⟨i, v, hd, hmem, -, h8, -⟩ := hcases
    · exact nomatch (hrun.trans hr).symm.trans hfaulted
    · exact nomatch hfaulted
    · exact ⟨i, hd, Instr.wellFormed_eq_false_of_mem hmem h8⟩
  · obtain ⟨v, hv⟩ := Instr.exists_firstBadOperand hw
    cases (exec_of_firstBadOperand hv).symm.trans (exec_of_step hr hs hd)
    rfl

/-! ### The flags after a COMPARE -/

theorem bits_of_flagsEqual {t : State} (h : t.fl = flagsEqual) :
    t.equalBit = true ∧ t.greaterBit = false ∧ t.lessBit = false ∧ t.fl.toNat < 8 := by
  rw [State.equalBit, State.greaterBit, State.lessBit, h]
  decide

theorem bits_of_flagsGreater {t : State} (h : t.fl = flagsGreater) :
    t.equalBit = false ∧ t.greaterBit = true ∧ t.lessBit = false ∧ t.fl.toNat < 8 := by
  rw [State.equalBit, State.greaterBit, State.lessBit, h]
  decide

theorem bits_of_flagsLess {t : State} (h : t.fl = flagsLess) :
    t.equalBit = false ∧ t.greaterBit = false ∧ t.lessBit = true ∧ t.fl.toNat < 8 := by
  rw [State.equalBit, State.greaterBit, State.lessBit, h]
  decide

theorem compare_bits {t : State} {p q : Byte} (hfl : t.fl = compareFlags p q) :
    (t.equalBit = true ↔ p = q) ∧ (t.greaterBit = true ↔ p.toNat > q.toNat) ∧ (t.lessBit = true ↔ p.toNat < q.toNat) ∧
      t.fl.toNat < 8 ∧ t.equalBit.toNat + t.greaterBit.toNat + t.lessBit.toNat = 1 := by
  obtain ⟨hpq, hf⟩ | ⟨hpq, hf⟩ | ⟨hpq, hf⟩ := compareFlags_cases p q
  · obtain ⟨hE, hG, hL, h8⟩ := bits_of_flagsEqual (hfl.trans hf)
    simp [hE, hG, hL, h8, BitVec.eq_of_toNat_eq hpq]
  · obtain ⟨hE, hG, hL, h8⟩ := bits_of_flagsGreater (hfl.trans hf)
    have hne : p ≠ q := fun e => hpq.ne' (congrArg BitVec.toNat e)
    simp [hE, hG, hL, h8, hpq, hpq.le, hne]
  · obtain ⟨hE, hG, hL, h8⟩ := bits_of_flagsLess (hfl.trans hf)
    have hne : p ≠ q := fun e => hpq.ne (congrArg BitVec.toNat e)
    simp [hE, hG, hL, h8, hpq, hpq.le, hne]

/-- Settles O40: the step writes `compareFlags` of the two registers. -/
theorem compareBitsExclusive : Obligations.CompareBitsExclusive := by
  intro s t ha hb hr hop hs
  cases (exec_compare_of_lt ha hb).symm.trans (exec_of_step hr hs (decode_opCompare hop))
  exact compare_bits rfl

/-! ### The next `pc` (R28) -/

/-- A one-register instruction that did not fault has had its effect. -/
theorem effect_of_withReg {op a : Byte} {s t : State} {effect : RegIndex → State}
    (h : withReg op a s effect = .next t) (hnf : t.run ≠ .faulted) : ∃ ha : a.toNat < 8, t = effect ⟨a.toNat, ha⟩ :=
  withReg_elim (P := fun t => t.run ≠ .faulted → ∃ ha : a.toNat < 8, t = effect ⟨a.toNat, ha⟩) h
    (fun ha _ => ⟨ha, rfl⟩) (fun _ hnf => absurd rfl hnf) hnf

/-- A two-register instruction that did not fault has had its effect. -/
theorem effect_of_withRegs {op a b : Byte} {s t : State} {effect : RegIndex → RegIndex → State}
    (h : withRegs op a b s effect = .next t) (hnf : t.run ≠ .faulted) :
    ∃ (ha : a.toNat < 8) (hb : b.toNat < 8), t = effect ⟨a.toNat, ha⟩ ⟨b.toNat, hb⟩ :=
  withRegs_elim (P := fun t => t.run ≠ .faulted → ∃ (ha : a.toNat < 8) (hb : b.toNat < 8), t = effect ⟨_, ha⟩ ⟨_, hb⟩) h
    (fun ha hb _ => ⟨ha, hb, rfl⟩) (fun _ hnf => absurd rfl hnf) (fun _ hnf => absurd rfl hnf) hnf

section

variable {s t : State} (hr : s.run = .running) (hs : step s = .next t)
include hr hs

theorem step_pc_halt (hop : s.fetch.op = opHalt) : t.pc = s.pc := by
  cases exec_of_step hr hs (decode_opHalt hop)
  rfl

theorem step_pc_ret (hop : s.fetch.op = opRet) : t.pc = s.readMem s.sp := by
  cases exec_of_step hr hs (decode_opRet hop)
  rfl

theorem step_pc_unrecognized (hop : s.fetch.op ∉ specOpcodes) : t.pc.toNat = (s.pc.toNat + 1) % 256 := by
  cases (step_unrecognized hr hop).symm.trans hs
  exact BitVec.toNat_add s.pc 1

variable (hnf : t.run ≠ .faulted)
include hnf

theorem step_pc_three (hop : s.fetch.op ∈ [opLoadImmediate, opMultiply, opAdd, opCompare]) :
    t.pc.toNat = (s.pc.toNat + 3) % 256 := by
  suffices t.pc = s.pc + 3 from this ▸ BitVec.toNat_add s.pc 3
  simp only [List.mem_cons, List.not_mem_nil, or_false] at hop
  obtain hop | hop | hop | hop := hop
  · obtain ⟨_, rfl⟩ := effect_of_withReg (exec_of_step hr hs (decode_opLoadImmediate hop)) hnf
    rfl
  · obtain ⟨_, _, rfl⟩ := effect_of_withRegs (exec_of_step hr hs (decode_opMultiply hop)) hnf
    rfl
  · obtain ⟨_, _, rfl⟩ := effect_of_withRegs (exec_of_step hr hs (decode_opAdd hop)) hnf
    rfl
  · obtain ⟨_, _, rfl⟩ := effect_of_withRegs (exec_of_step hr hs (decode_opCompare hop)) hnf
    rfl

theorem step_pc_two (hop : s.fetch.op ∈ [opPrintRegister, opPush, opPop]) : t.pc.toNat = (s.pc.toNat + 2) % 256 := by
  suffices t.pc = s.pc + 2 from this ▸ BitVec.toNat_add s.pc 2
  simp only [List.mem_cons, List.not_mem_nil, or_false] at hop
  obtain hop | hop | hop := hop
  · obtain ⟨_, rfl⟩ := effect_of_withReg (exec_of_step hr hs (decode_opPrintRegister hop)) hnf
    rfl
  · obtain ⟨_, rfl⟩ := effect_of_withReg (exec_of_step hr hs (decode_opPush hop)) hnf
    rfl
  · obtain ⟨_, rfl⟩ := effect_of_withReg (exec_of_step hr hs (decode_opPop hop)) hnf
    rfl

theorem step_pc_register (hop : s.fetch.op ∈ [opCall, opJump]) :
    ∃ ha : s.fetch.a.toNat < 8, t.pc = s.readReg ⟨_, ha⟩ := by
  obtain hop | hop := List.mem_pair.mp hop
  · obtain ⟨ha, rfl⟩ := effect_of_withReg (exec_of_step hr hs (decode_opCall hop)) hnf
    exact ⟨ha, rfl⟩
  · obtain ⟨ha, rfl⟩ := effect_of_withReg (exec_of_step hr hs (decode_opJump hop)) hnf
    exact ⟨ha, rfl⟩

theorem step_pc_jumpIfEqual (hop : s.fetch.op = opJumpIfEqual) : ∃ ha : s.fetch.a.toNat < 8,
    t.pc = if s.equalBit then s.readReg ⟨_, ha⟩ else BitVec.ofNat 8 (s.pc.toNat + 2) := by
  obtain ⟨ha, rfl⟩ := effect_of_withReg (exec_of_step hr hs (decode_opJumpIfEqual hop)) hnf
  exact ⟨ha, by rw [addr_ofNat_add]; exact branchEffect_pc ..⟩

theorem step_pc_jumpIfNotEqual (hop : s.fetch.op = opJumpIfNotEqual) : ∃ ha : s.fetch.a.toNat < 8,
    t.pc = if s.equalBit then BitVec.ofNat 8 (s.pc.toNat + 2) else s.readReg ⟨_, ha⟩ := by
  obtain ⟨ha, rfl⟩ := effect_of_withReg (exec_of_step hr hs (decode_opJumpIfNotEqual hop)) hnf
  refine ⟨ha, ?_⟩
  rw [addr_ofNat_add, branchEffect_pc]
  cases s.equalBit <;> rfl

end

/-- Settles O41: one lemma per row of the table of R28. -/
theorem nextPcByOpcode : Obligations.NextPcByOpcode := fun _ _ hr hs hnf =>
  ⟨step_pc_halt hr hs, step_pc_three hr hs hnf, step_pc_two hr hs hnf, step_pc_register hr hs hnf, step_pc_ret hr hs,
    step_pc_jumpIfEqual hr hs hnf, step_pc_jumpIfNotEqual hr hs hnf, step_pc_unrecognized hr hs⟩

/-! ### A store and the next fetch (R64) -/

theorem State.readMem_pushByte (s : State) (v : Byte) (c : Addr) :
    (s.pushByte v).readMem c = if c = s.sp - 1 then v else s.readMem c := by
  split
  · next h => exact h ▸ s.readMem_pushByte_same v
  · next h => exact s.readMem_pushByte_other c v h

/-- Settles O30: the pushed cell is `pc + 1`; the operand was latched before, and `pc + 2` is another cell. -/
theorem pushOverItsOwnOperandUsesLatchedByte : Obligations.PushOverItsOwnOperandUsesLatchedByte := by
  intro s ha hr hop hsp
  have hcell : s.pc + 1 = s.sp - 1 := by rw [hsp]; bv_omega
  have hother : s.pc + 2 ≠ s.sp - 1 := by rw [hsp]; bv_omega
  refine ⟨_, step_push hr hop ha, ?stored, hcell.symm, ?unwritten⟩
  case stored => exact (s.readMem_pushByte ..).trans (if_pos hcell)
  case unwritten => exact (s.readMem_pushByte ..).trans (if_neg hother)

/-- Settles O31: each byte of the next fetch is a read of the memory that the push has left. -/
theorem storeSeenByNextFetchNotByItsOwn : Obligations.StoreSeenByNextFetchNotByItsOwn := by
  rintro s ha hr (hop | hop)
  · have hne : s.fetch.op ≠ 0x50 := hop ▸ by decide
    exact ⟨_, _, step_push hr hop ha, fun _ => ⟨rfl, rfl⟩, fun h => absurd h hne, s.readMem_pushByte .., s.readMem_pushByte ..,
      s.readMem_pushByte ..⟩
  · have hne : s.fetch.op ≠ 0x45 := hop ▸ by decide
    exact ⟨_, _, step_call hr hop ha, fun h => absurd h hne, fun _ => ⟨BitVec.toNat_add s.pc 2, rfl⟩, s.readMem_pushByte ..,
      s.readMem_pushByte .., s.readMem_pushByte ..⟩

/-! ### One instruction from two states

The operand forms look at the operand bytes alone, so from two states they take the same way: to the effect or to the fault. -/

section

variable {R : Host.Outcome State Fault Refusal → Host.Outcome State Fault Refusal → Prop} {op a b : Byte} {s s' : State}

theorem withReg_both {effect effect' : RegIndex → State} (heffect : ∀ r, R (.next (effect r)) (.next (effect' r)))
    (hfault : ∀ op v, R (.next (s.raiseRegisterIndexFault op v)) (.next (s'.raiseRegisterIndexFault op v))) :
    R (withReg op a s effect) (withReg op a s' effect') := by
  unfold withReg
  cases regidx a with
  | some r => exact heffect r
  | none => exact hfault op a

theorem withRegs_both {effect effect' : RegIndex → RegIndex → State}
    (heffect : ∀ r q, R (.next (effect r q)) (.next (effect' r q)))
    (hfault : ∀ op v, R (.next (s.raiseRegisterIndexFault op v)) (.next (s'.raiseRegisterIndexFault op v))) :
    R (withRegs op a b s effect) (withRegs op a b s' effect') := by
  unfold withRegs
  cases regidx a with
  | some r =>
    cases regidx b with
    | some q => exact heffect r q
    | none => exact hfault op b
  | none => exact hfault op a

end

/-! ### The streams are write-only (R36, R37) -/

/-- The state with other streams. -/
def State.withStreams (s : State) (o : List Byte) (d : List DiagEvent) : State := { s with out := o, diag := d }

@[simp] theorem State.withStreams_run (s : State) (o : List Byte) (d : List DiagEvent) : (s.withStreams o d).run = s.run := rfl
@[simp] theorem State.withStreams_fetch (s : State) (o : List Byte) (d : List DiagEvent) :
    (s.withStreams o d).fetch = s.fetch := rfl

/-- The answers of one effect to `s` and to `s.withStreams o d`: the same next state but for the streams, which have grown by the
same entries. -/
def SameButStreams (s : State) (o : List Byte) (d : List DiagEvent) (a a' : Host.Outcome State Fault Refusal) : Prop :=
  ∃ (t : State) (o' : List Byte) (d' : List DiagEvent), a = .next t ∧ a' = .next (t.withStreams (o ++ o') (d ++ d')) ∧
    t.out = s.out ++ o' ∧ t.diag = s.diag ++ d'

section

variable {s : State} {o : List Byte} {d : List DiagEvent}

/-- The effect left the streams as they were, so the answers differ as the two states did. -/
theorem SameButStreams.quiet {t : State} (h : StreamsSame s t) : SameButStreams s o d (.next t) (.next (t.withStreams o d)) :=
  ⟨t, [], [], rfl, by rw [List.append_nil, List.append_nil], by rw [h.1, List.append_nil], by rw [h.2, List.append_nil]⟩

theorem SameButStreams.printed {t : State} {v : Byte} (ho : t.out = s.out ++ [v]) (hd : t.diag = s.diag) :
    SameButStreams s o d (.next t) (.next (t.withStreams (o ++ [v]) d)) :=
  ⟨t, [v], [], rfl, by rw [List.append_nil], ho, by rw [hd, List.append_nil]⟩

theorem SameButStreams.reported {t : State} {e : DiagEvent} (ho : t.out = s.out) (hd : t.diag = s.diag ++ [e]) :
    SameButStreams s o d (.next t) (.next (t.withStreams o (d ++ [e]))) :=
  ⟨t, [], [e], rfl, by rw [List.append_nil], by rw [ho, List.append_nil], hd⟩

theorem SameButStreams.fault (op v : Byte) : SameButStreams s o d (.next (s.raiseRegisterIndexFault op v))
    (.next ((s.withStreams o d).raiseRegisterIndexFault op v)) := .quiet ⟨rfl, rfl⟩

theorem SameButStreams.withReg {op a : Byte} {effect effect' : RegIndex → State}
    (h : ∀ r, SameButStreams s o d (.next (effect r)) (.next (effect' r))) :
    SameButStreams s o d (withReg op a s effect) (withReg op a (s.withStreams o d) effect') :=
  withReg_both h .fault

theorem SameButStreams.withRegs {op a b : Byte} {effect effect' : RegIndex → RegIndex → State}
    (h : ∀ r q, SameButStreams s o d (.next (effect r q)) (.next (effect' r q))) :
    SameButStreams s o d (withRegs op a b s effect) (withRegs op a b (s.withStreams o d) effect') :=
  withRegs_both h .fault

theorem SameButStreams.branchEffect (k : Bool) (r : RegIndex) :
    SameButStreams s o d (.next (branchEffect k s r)) (.next (branchEffect k (s.withStreams o d) r)) := by
  cases k <;> exact .quiet ⟨rfl, rfl⟩

/-- PRINT-REGISTER is the one instruction that appends, and what it appends is a register. -/
theorem exec_sameButStreams (i : Instr) : SameButStreams s o d (exec i s) (exec i (s.withStreams o d)) := by
  cases i with
  | halt | ret => exact .quiet ⟨rfl, rfl⟩
  | multiply | add | compare => exact .withRegs fun _ _ => .quiet ⟨rfl, rfl⟩
  | printRegister => exact .withReg fun _ => .printed rfl rfl
  | jumpIfEqual | jumpIfNotEqual => exact .withReg (.branchEffect _)
  | loadImmediate | push | pop | call | jump => exact .withReg fun _ => .quiet ⟨rfl, rfl⟩

/-- The fetch does not read the streams, the report appends to one of them, and a stopped engine does nothing. -/
theorem step_sameButStreams : SameButStreams s o d (step s) (step (s.withStreams o d)) := by
  unfold step
  rw [State.withStreams_run, State.withStreams_fetch]
  cases s.run with
  | halted | faulted => exact .quiet ⟨rfl, rfl⟩
  | running =>
    unfold execFetched
    cases decode s.fetch with
    | instruction i => exact exec_sameButStreams i
    | unrecognizedOpcode op => exact .reported rfl rfl

end

/-- Settles O46: the steps from the two states are related arm by arm (`exec_sameButStreams`). -/
theorem outputStreamsAreWriteOnly : Obligations.OutputStreamsAreWriteOnly := by
  intro s t o d hs
  obtain ⟨t', o', d', ht, ht', ho, hd⟩ : SameButStreams s o d (step s) (step (s.withStreams o d)) := step_sameButStreams
  obtain rfl : t = t' := Host.Outcome.next.inj (hs.symm.trans ht)
  exact ⟨o', d', ho, hd, ht'⟩

end Sys2Proof.Machine
end

section
/-! PROOFS. The block's boundary (70_reset_and_hazards.md R192 to R194): the load port, the program file, and the canonical form
of memory (20_memory.md R50). -/

namespace Sys2Proof.Machine

/-! ### Sequences of host moves -/

theorem Block.moves_cons (b : Block) (m : HostMove) (ms : List HostMove) :
    b.moves (m :: ms) = (b.move m).bind (·.moves ms) := by
  rw [Block.moves]
  cases b.move m <;> rfl

theorem Block.moves_append (b : Block) (ms ms' : List HostMove) : b.moves (ms ++ ms') = (b.moves ms).bind (·.moves ms') := by
  induction ms generalizing b with
  | nil => rfl
  | cons m ms ih =>
    rw [List.cons_append, Block.moves_cons, Block.moves_cons, Option.bind_assoc]
    exact congrArg _ (funext ih)

/-! ### The load port (R192) -/

theorem Block.moves_loadMoves (s : State) (n : Nat) (image : List Byte) :
    Block.moves ⟨s, true⟩ (loadMoves n image) = some ⟨{ s with mem := s.mem.writeFrom n image }, true⟩ := by
  induction image generalizing s n with
  | nil => rfl
  | cons v vs ih => exact ih (s.writeMem (BitVec.ofNat 8 n) v) (n + 1)

/-- Settles O50: the writes through the port are those of `Memory.writeFrom`. -/
theorem loadPortWritesGiveTheImage : Obligations.LoadPortWritesGiveTheImage := fun image =>
  ⟨fun hlen => ⟨_, loadImage_of_length_le hlen, Block.moves_loadMoves State.reset 0 image⟩,
    fun hlen => if_neg (Nat.not_le.mpr hlen)⟩

theorem Block.loading_of_step {b c : Block} (h : b.move .step = some c) : c.loading = false := by
  obtain ⟨t, ht⟩ := safe_step b.engine
  obtain rfl := Option.some.inj ((Block.move_step ht).symm.trans h)
  rfl

/-- A closed load port stays closed under every move but a reset. -/
theorem Block.loading_of_move {b c : Block} {m : HostMove} (hm : m ≠ .reset) (hb : b.loading = false)
    (h : b.move m = some c) : c.loading = false := by
  cases m with
  | reset => exact absurd rfl hm
  | load addr data => exact nomatch (Block.move_load_closed hb addr data).symm.trans h
  | step => exact Block.loading_of_step h

theorem Block.loading_of_moves {b c : Block} {ms : List HostMove} (hms : .reset ∉ ms) (hb : b.loading = false)
    (h : b.moves ms = some c) : c.loading = false := by
  induction ms generalizing b with
  | nil => exact Option.some.inj h ▸ hb
  | cons m ms ih =>
    obtain ⟨hm, hms⟩ := not_or.mp (List.mem_cons.not.mp hms)
    obtain ⟨b', hb', hrest⟩ := Option.bind_eq_some_iff.mp (Block.moves_cons b m ms ▸ h)
    exact ih hms (Block.loading_of_move (Ne.symm hm) hb hb') hrest

/-- Settles O51: the step closes the port, and no move of the rest opens it. -/
theorem loadPortClosedAfterFirstStep : Obligations.LoadPortClosedAfterFirstStep := by
  intro b ms c addr data hms h
  obtain ⟨b', hstep, hrest⟩ := Option.bind_eq_some_iff.mp (Block.moves_cons b .step ms ▸ h)
  exact Block.move_load_closed (Block.loading_of_moves hms (Block.loading_of_step hstep) hrest) addr data

/-! ### The program file (R194) -/

/-- The content of a line is what stands before the comment, without the spaces after it. -/
theorem lineContent_of_spaces_after {line content : List Char} {n : Nat}
    (hline : line.takeWhile (· ≠ '#') = content ++ List.replicate n ' ') (hcontent : ∀ c ∈ content, isBlank c = false) :
    lineContent line = content := by
  have hspaces : ∀ c ∈ List.replicate n ' ', isBlank c = true := fun c hc => List.eq_of_mem_replicate hc ▸ by decide
  have hkept : content.reverse.dropWhile isBlank = content.reverse :=
    List.dropWhile_eq_self_iff.mpr fun hl =>
      Bool.eq_false_iff.mp (hcontent _ (List.mem_reverse.mp (List.getElem_mem hl)))
  cases content with
  | nil => exact lineContent_of_spaces hline
  | cons c cs =>
    have hhead : isBlank c = false := hcontent c List.mem_cons_self
    rw [lineContent, hline, List.cons_append, List.dropWhile_cons_of_neg (by simp [hhead]), ← List.cons_append,
      List.reverse_append, List.reverse_replicate, List.dropWhile_append_of_pos hspaces, hkept, List.reverse_reverse]

/-- A binary digit's value, most significant bit first: the digit of bit `k` takes `n / 2 ^ (k + 1)` to `n / 2 ^ k`. -/
theorem binaryValue_bit (v : Byte) (k : Nat) (cs : List Char) :
    binaryValue (v.toNat / 2 ^ (k + 1)) ((if v.getLsbD k then '1' else '0') :: cs) = binaryValue (v.toNat / 2 ^ k) cs := by
  have hdiv : v.toNat / 2 ^ (k + 1) = v.toNat / 2 ^ k / 2 := by rw [Nat.pow_succ, Nat.div_div_eq_div_mul]
  have hbit : v.getLsbD k = decide (v.toNat / 2 ^ k % 2 = 1) := by
    rw [BitVec.getLsbD, Nat.testBit_eq_decide_div_mod_eq]
  rcases Nat.mod_two_eq_zero_or_one (v.toNat / 2 ^ k) with h | h
  · have hval : 2 * (v.toNat / 2 ^ (k + 1)) = v.toNat / 2 ^ k := by omega
    simp [hbit, h, binaryValue, hval]
  · have hval : 2 * (v.toNat / 2 ^ (k + 1)) + 1 = v.toNat / 2 ^ k := by omega
    simp [hbit, h, binaryValue, hval]

theorem binaryValue_binaryLine (v : Byte) : binaryValue 0 (binaryLine v) = some v.toNat := by
  have h0 : 0 = v.toNat / 2 ^ (7 + 1) := (Nat.div_eq_of_lt v.isLt).symm
  rw [h0]
  simp only [binaryLine, List.map_cons, List.map_nil, binaryValue_bit]
  simp [binaryValue]

theorem mem_binaryLine {v : Byte} {c : Char} (h : c ∈ binaryLine v) : c = '0' ∨ c = '1' := by
  obtain ⟨k, -, rfl⟩ := List.mem_map.mp h
  cases v.getLsbD k
  · exact .inl rfl
  · exact .inr rfl

theorem isBlank_of_mem_binaryLine {v : Byte} {c : Char} (h : c ∈ binaryLine v) : isBlank c = false := by
  obtain rfl | rfl := mem_binaryLine h <;> decide

theorem ne_hash_of_mem_binaryLine {v : Byte} {c : Char} (h : c ∈ binaryLine v) : decide (c ≠ '#') = true := by
  obtain rfl | rfl := mem_binaryLine h <;> decide

theorem readLine_of_content {line : List Char} {v : Byte} (h : lineContent line = binaryLine v) :
    readLine line = .byte v := by
  have hvalue := binaryValue_binaryLine v
  rw [binaryLine, List.map_cons] at h hvalue
  simp only [readLine, h, hvalue, v.isLt, if_true, BitVec.ofNat_toNat, BitVec.setWidth_eq]

theorem readLine_binaryLine (v : Byte) : readLine (binaryLine v) = .byte v := by
  have hline : (binaryLine v).takeWhile (· ≠ '#') = binaryLine v ++ List.replicate 0 ' ' :=
    (List.takeWhile_eq_self_iff.mpr fun _ hc => ne_hash_of_mem_binaryLine hc).trans (List.append_nil _).symm
  exact readLine_of_content (lineContent_of_spaces_after hline fun _ hc => isBlank_of_mem_binaryLine hc)

theorem readLine_binaryLine_comment (v : Byte) (comment : List Char) :
    readLine (binaryLine v ++ ' ' :: '#' :: comment) = .byte v := by
  have hline : (binaryLine v ++ ' ' :: '#' :: comment).takeWhile (· ≠ '#') = binaryLine v ++ List.replicate 1 ' ' :=
    (List.takeWhile_append_of_pos fun _ hc => ne_hash_of_mem_binaryLine hc).trans (by simp)
  exact readLine_of_content (lineContent_of_spaces_after hline fun _ hc => isBlank_of_mem_binaryLine hc)

theorem readLines_cons_byte {line : List Char} {v : Byte} {lines : List (List Char)} {image : List Byte}
    (hline : readLine line = .byte v) (hlines : readLines lines = some image) :
    readLines (line :: lines) = some (v :: image) := by
  rw [readLines, hline, hlines]
  rfl

theorem readLines_cons_skipped {line : List Char} (lines : List (List Char)) (hline : readLine line = .skipped) :
    readLines (line :: lines) = readLines lines := by
  rw [readLines, hline]

theorem readLines_binaryLines (image : List Byte) : readLines (image.map binaryLine) = some image := by
  induction image with
  | nil => rfl
  | cons v vs ih => exact readLines_cons_byte (readLine_binaryLine v) ih

theorem readLines_commented (image : List Byte) (comment : List Char) :
    readLines (image.flatMap fun v => [' ' :: '#' :: comment, binaryLine v ++ ' ' :: '#' :: comment]) = some image := by
  induction image with
  | nil => rfl
  | cons v vs ih =>
    exact (readLines_cons_skipped _ (readLine_comment 1 comment)).trans
      (readLines_cons_byte (readLine_binaryLine_comment v comment) ih)

theorem loadFile_of_readLines {lines : List (List Char)} {image : List Byte} (h : readLines lines = some image) :
    loadFile lines = loadImage image := by
  rw [loadFile, h]

/-- Settles O52: the lines read as the image's bytes, one by one; comments and the spaces before them are no content. -/
theorem programFileLoadsItsBytes : Obligations.ProgramFileLoadsItsBytes := fun image comment _ =>
  ⟨loadFile_of_readLines (readLines_binaryLines image), loadFile_of_readLines (readLines_commented image comment)⟩

/-! ### Canonical memories (R50) -/

namespace Memory

theorem wfFrom_cons {lo k : Nat} {w : Byte} {m : Memory} : wfFrom lo ((k, w) :: m) = true ↔
    lo ≤ k ∧ k < 256 ∧ w ≠ Config.memReset ∧ wfFrom (k + 1) m = true := by
  simp only [wfFrom, Bool.and_eq_true, decide_eq_true_eq, and_assoc]

theorem read_cons_same {k : Nat} {w : Byte} {m : Memory} {c : Addr} (h : k = c.toNat) : read ((k, w) :: m) c = w := if_pos h

theorem read_cons_other {k : Nat} {w : Byte} {m : Memory} {c : Addr} (h : k ≠ c.toNat) :
    read ((k, w) :: m) c = m.read c := if_neg h

/-- Below its first address a canonical form lists no cell. -/
theorem read_of_lt_wfFrom {m : Memory} {lo : Nat} {c : Addr} (hm : wfFrom lo m = true) (hc : c.toNat < lo) :
    m.read c = Config.memReset := by
  induction m generalizing lo with
  | nil => rfl
  | cons e m ih =>
    obtain ⟨k, w⟩ := e
    obtain ⟨hlo, -, -, hrest⟩ := wfFrom_cons.mp hm
    rw [read_cons_other (by omega)]
    exact ih hrest (by omega)

theorem exists_addr {k : Nat} (hk : k < 256) : ∃ c : Addr, k = c.toNat :=
  ⟨BitVec.ofNat 8 k, (Nat.mod_eq_of_lt hk).symm⟩

/-- The first cell that one canonical form lists is not below the addresses of another that reads alike. -/
theorem le_head_of_read_eq {lo lo' k : Nat} {w : Byte} {m n : Memory} (hm : wfFrom lo ((k, w) :: m) = true)
    (hn : wfFrom lo' n = true) (h : ∀ c : Addr, read ((k, w) :: m) c = n.read c) : lo' ≤ k := by
  obtain ⟨-, hk, hw, -⟩ := wfFrom_cons.mp hm
  obtain ⟨c, hc⟩ := exists_addr hk
  by_contra hlt
  refine hw ?_
  calc w = read ((k, w) :: m) c := (read_cons_same hc).symm
    _ = n.read c := h c
    _ = Config.memReset := read_of_lt_wfFrom hn (by omega)

/-- Canonical forms that read alike and begin with one cell read alike after it. -/
theorem read_tail_eq {k : Nat} {w w' : Byte} {m n : Memory} (hm : wfFrom (k + 1) m = true) (hn : wfFrom (k + 1) n = true)
    (h : ∀ c : Addr, read ((k, w) :: m) c = read ((k, w') :: n) c) (c : Addr) : m.read c = n.read c := by
  by_cases hc : k = c.toNat
  · rw [read_of_lt_wfFrom hm (by omega), read_of_lt_wfFrom hn (by omega)]
  · have hread := h c
    rwa [read_cons_other hc, read_cons_other hc] at hread

theorem eq_of_wfFrom {lo lo' : Nat} {m n : Memory} (hm : wfFrom lo m = true) (hn : wfFrom lo' n = true)
    (h : ∀ c : Addr, m.read c = n.read c) : m = n := by
  induction m generalizing lo lo' n with
  | nil =>
    cases n with
    | nil => rfl
    | cons e n => exact absurd (le_head_of_read_eq (lo' := e.1 + 1) hn rfl fun c => (h c).symm) (Nat.not_succ_le_self _)
  | cons e m ih =>
    obtain ⟨k, w⟩ := e
    cases n with
    | nil => exact absurd (le_head_of_read_eq (lo' := k + 1) hm rfl h) (Nat.not_succ_le_self _)
    | cons e' n =>
      obtain ⟨k', w'⟩ := e'
      obtain ⟨-, hk, hw, hmrest⟩ := wfFrom_cons.mp hm
      obtain ⟨-, hk', hw', hnrest⟩ := wfFrom_cons.mp hn
      have hle : k' ≤ k := le_head_of_read_eq hm (wfFrom_cons.mpr ⟨le_rfl, hk', hw', hnrest⟩) h
      have hge : k ≤ k' := le_head_of_read_eq hn (wfFrom_cons.mpr ⟨le_rfl, hk, hw, hmrest⟩) fun c => (h c).symm
      obtain rfl : k = k' := Nat.le_antisymm hge hle
      obtain ⟨c, hc⟩ := exists_addr hk
      obtain rfl : w = w' := (read_cons_same hc).symm.trans ((h c).trans (read_cons_same hc))
      rw [ih hmrest hnrest (read_tail_eq hmrest hnrest h)]

end Memory

/-- Settles O56: by induction on the lists of cells; each read at a listed address tells the two lists' next cells apart. -/
theorem canonicalMemoriesReadingAlikeAreEqual : Obligations.CanonicalMemoriesReadingAlikeAreEqual :=
  fun _ _ => Memory.eq_of_wfFrom

end Sys2Proof.Machine
end

section
/-! PROOFS. Runs that do not end (70_reset_and_hazards.md R201): a JUMP to itself, memory without opcodes, and a CALL to itself,
before, while and after its pushes overwrite its own bytes. -/

namespace Sys2Proof.Machine

/-! ### Step requests in a row -/

/-- What holds at first and is carried on by each of `n` steps holds after `n` step requests. -/
theorem Block.moves_steps {P : Nat → State → Prop} {n : Nat} {s : State} (h0 : P 0 s)
    (hstep : ∀ k < n, ∀ t, P k t → ∃ u, step t = .next u ∧ P (k + 1) u) :
    ∃ t, Block.moves ⟨s, false⟩ (List.replicate n .step) = some ⟨t, false⟩ ∧ P n t := by
  induction n with
  | zero => exact ⟨s, rfl, h0⟩
  | succ n ih =>
    obtain ⟨t, ht, hP⟩ := ih fun k hk => hstep k (Nat.lt_succ_of_lt hk)
    obtain ⟨u, hu, hP'⟩ := hstep n (Nat.lt_succ_self n) t hP
    have hlast : Block.moves ⟨t, false⟩ [.step] = some ⟨u, false⟩ := by
      rw [Block.moves_cons, Block.move_step hu]
      rfl
    refine ⟨u, ?_, hP'⟩
    rw [List.replicate_succ', Block.moves_append, ht]
    exact hlast

/-- Settles O32: one step of the JUMP leads back to the same state. -/
theorem jumpToItselfNeverEnds : Obligations.JumpToItselfNeverEnds := by
  intro k s ha hr hop hself
  have hstep : step s = .next s := (step_jump hr hop ha).trans (congrArg (Host.Outcome.next <| s.setPc ·) hself)
  obtain ⟨t, ht, rfl⟩ := Block.moves_steps (P := fun _ t => t = s) (n := k) rfl fun _ _ _ ht => ⟨s, ht ▸ hstep, rfl⟩
  exact ht

/-! ### Memory without opcodes (R111) -/

/-- The state after `k` bytes have been skipped and reported. -/
def State.skip (s : State) (k : Nat) : State :=
  { s with
    pc := BitVec.ofNat 8 (s.pc.toNat + k)
    diag := s.diag ++ (List.range k).map fun j =>
      ⟨BitVec.ofNat 8 (s.pc.toNat + j), s.readMem (BitVec.ofNat 8 (s.pc.toNat + j))⟩ }

theorem State.skip_zero (s : State) : s.skip 0 = s := by
  simp [State.skip]

theorem State.skip_succ (s : State) (k : Nat) :
    s.skip (k + 1) = ((s.skip k).report (s.skip k).pc (s.readMem (s.skip k).pc)).advance 1 := by
  have hpc : BitVec.ofNat 8 (s.pc.toNat + (k + 1)) = BitVec.ofNat 8 (s.pc.toNat + k) + 1 :=
    BitVec.ofNat_add (s.pc.toNat + k) 1
  rw [State.skip, hpc, List.range_succ, List.map_append, ← List.append_assoc]
  rfl

/-- Settles O33: each step skips one byte, since no byte of the unchanged memory is an opcode. -/
theorem memoryWithoutOpcodesNeverEnds : Obligations.MemoryWithoutOpcodesNeverEnds := by
  intro k s hr hmem
  have hskip : ∀ j < k, ∀ t, t = s.skip j → ∃ u, step t = .next u ∧ u = s.skip (j + 1) := by
    rintro j - _ rfl
    exact ⟨_, step_unrecognized hr (hmem _), (s.skip_succ j).symm⟩
  obtain ⟨t, ht, rfl⟩ := Block.moves_steps s.skip_zero.symm hskip
  exact ht

/-! ### The cells that pushes pass (R143) -/

/-- How many pushes from `s` pass before one is stored at `c`. -/
def State.pushIndex (s : State) (c : Addr) : Nat := (s.sp - 1 - c).toNat

theorem State.pushIndex_lt (s : State) (c : Addr) : s.pushIndex c < 256 := (s.sp - 1 - c).isLt

theorem State.cell_pushIndex (s : State) (c : Addr) : s.sp - BitVec.ofNat 8 (s.pushIndex c + 1) = c := by
  rw [State.pushIndex, BitVec.ofNat_add, BitVec.ofNat_toNat, BitVec.setWidth_eq]
  bv_omega

theorem State.pushIndex_cell (s : State) {k : Nat} (hk : k < 256) : s.pushIndex (s.sp - BitVec.ofNat 8 (k + 1)) = k := by
  rw [State.pushIndex, BitVec.ofNat_add]
  bv_omega

theorem State.eq_next_cell_iff (s : State) {k : Nat} (hk : k < 256) (c : Addr) :
    c = s.sp - BitVec.ofNat 8 k - 1 ↔ s.pushIndex c = k := by
  rw [State.pushIndex]
  bv_omega

/-! ### A CALL to itself (R150) -/

/-- The byte names a register that holds `pc`. -/
def State.NamesPc (s : State) (v : Byte) : Prop := ∃ h : v.toNat < 8, s.readReg ⟨v.toNat, h⟩ = s.pc

/-- The first `n` cells that pushes pass hold the return address, and the others what they held. -/
def FilledFrom (s : State) (n : Nat) (t : State) : Prop :=
  ∀ c : Addr, t.readMem c = if s.pushIndex c < n then s.returnAddress else s.readMem c

theorem FilledFrom.of_lt {s t : State} {n : Nat} {c : Addr} (h : FilledFrom s n t) (hc : s.pushIndex c < n) :
    t.readMem c = s.returnAddress := (h c).trans (if_pos hc)

theorem FilledFrom.of_le {s t : State} {n : Nat} {c : Addr} (h : FilledFrom s n t) (hc : n ≤ s.pushIndex c) :
    t.readMem c = s.readMem c := (h c).trans (if_neg (Nat.not_lt.mpr hc))

theorem FilledFrom.cell {s t : State} {n j : Nat} (h : FilledFrom s n t) (hj : j < n) (hj' : j < 256) :
    t.readMem (s.sp - BitVec.ofNat 8 (j + 1)) = s.returnAddress :=
  h.of_lt ((s.pushIndex_cell hj').trans_lt hj)

/-- The state `t` after `k` CALLs from `s` to itself. -/
structure SelfCalls (s : State) (k : Nat) (t : State) : Prop where
  status : StatusSame s t
  pc : t.pc = s.pc
  sp : t.sp = s.sp - BitVec.ofNat 8 k
  regs : RegsSame s t
  fl : t.fl = s.fl
  streams : StreamsSame s t
  mem : FilledFrom s k t

theorem SelfCalls.refl (s : State) : SelfCalls s 0 s where
  status := ⟨rfl, rfl⟩
  pc := rfl
  sp := (BitVec.sub_zero s.sp).symm
  regs _ := rfl
  fl := rfl
  streams := ⟨rfl, rfl⟩
  mem _ := (if_neg (Nat.not_lt_zero _)).symm

section

variable {s t : State} {k : Nat}

theorem SelfCalls.fetch_op (h : SelfCalls s k t) (hk : k ≤ s.pushIndex s.pc) : t.fetch.op = s.fetch.op :=
  (congrArg t.readMem h.pc).trans (h.mem.of_le hk)

theorem SelfCalls.fetch_a_of_le (h : SelfCalls s k t) (hk : k ≤ s.pushIndex (s.pc + 1)) : t.fetch.a = s.fetch.a :=
  (congrArg (fun p => t.readMem (p + 1)) h.pc).trans (h.mem.of_le hk)

theorem SelfCalls.fetch_a_of_lt (h : SelfCalls s k t) (hk : s.pushIndex (s.pc + 1) < k) : t.fetch.a = s.returnAddress :=
  (congrArg (fun p => t.readMem (p + 1)) h.pc).trans (h.mem.of_lt hk)

theorem SelfCalls.returnAddress (h : SelfCalls s k t) : t.returnAddress = s.returnAddress := congrArg (· + 2) h.pc

theorem SelfCalls.mem_pushByte (h : SelfCalls s k t) (hk : k < 256) :
    FilledFrom s (k + 1) (t.pushByte t.returnAddress) := by
  intro c
  rw [State.readMem_pushByte, h.sp, h.returnAddress, h.mem c]
  simp only [s.eq_next_cell_iff hk]
  rcases Nat.lt_trichotomy (s.pushIndex c) k with hbefore | hnow | hnever
  · rw [if_neg hbefore.ne, if_pos hbefore, if_pos (Nat.lt_succ_of_lt hbefore)]
  · rw [if_pos hnow, if_pos (by omega)]
  · rw [if_neg hnever.ne', if_neg (by omega), if_neg (by omega)]

/-- A further CALL whose operand names a register that holds `pc`. -/
theorem SelfCalls.step (h : SelfCalls s k t) (hr : s.run = .running) (hk : k < 256) (hop : t.fetch.op = opCall)
    (hself : s.NamesPc t.fetch.a) : ∃ u, step t = .next u ∧ SelfCalls s (k + 1) u := by
  obtain ⟨ha, hreg⟩ := hself
  refine ⟨_, step_call (h.status.1.trans hr) hop ha, ?_⟩
  exact {
    status := h.status
    pc := (h.regs _).trans hreg
    sp := by
      rw [BitVec.ofNat_add, ← BitVec.sub_sub, ← h.sp]
      rfl
    regs := h.regs
    fl := h.fl
    streams := h.streams
    mem := h.mem_pushByte hk }

end

/-- While no push has reached the CALL's own bytes, it goes on. -/
theorem selfCalls_of_own_bytes_unreached {s : State} {n : Nat} (hr : s.run = .running) (hop : s.fetch.op = opCall)
    (hself : s.NamesPc s.fetch.a) (hn : n ≤ s.pushIndex s.pc) (hn' : n ≤ s.pushIndex (s.pc + 1)) :
    ∃ t, Block.moves ⟨s, false⟩ (List.replicate n .step) = some ⟨t, false⟩ ∧ SelfCalls s n t := by
  refine Block.moves_steps (SelfCalls.refl s) fun k hk t ht => ?_
  have ha : t.fetch.a = s.fetch.a := ht.fetch_a_of_le (hk.le.trans hn')
  exact ht.step hr ((hk.trans_le hn).trans (s.pushIndex_lt _)) ((ht.fetch_op (hk.le.trans hn)).trans hop) (ha ▸ hself)

theorem le_pushIndex_of_cells_ne {s : State} {k : Nat} {c : Addr}
    (h : ∀ j : Nat, j < k → s.sp - BitVec.ofNat 8 (j + 1) ≠ c) : k ≤ s.pushIndex c := by
  by_contra hlt
  exact h _ (Nat.lt_of_not_le hlt) (s.cell_pushIndex c)

theorem returnAddress_toNat (s : State) : s.returnAddress.toNat = (s.pc.toNat + 2) % 256 := BitVec.toNat_add s.pc 2

/-- A push on the operand byte of a return address of 8 or more makes the next CALL fault (R172). -/
theorem self_call_faults_after_push_on_operand {s : State} (hr : s.run = .running) (hop : s.fetch.op = opCall)
    (hself : s.NamesPc s.fetch.a) (hsp : s.sp = s.pc + 2) (h8 : 8 ≤ s.returnAddress.toNat) :
    ∃ t u, step s = .next t ∧ step t = .next u ∧ u.run = .faulted ∧
      u.fault = some ⟨.registerIndex, s.pc, opCall, s.returnAddress⟩ := by
  have hpc : s.pushIndex s.pc = 1 := by rw [State.pushIndex, hsp]; bv_omega
  have hoperand : s.pushIndex (s.pc + 1) = 0 := by rw [State.pushIndex, hsp]; bv_omega
  obtain ⟨t, hstep, ht⟩ := (SelfCalls.refl s).step hr (by decide) hop hself
  have ha : t.fetch.a = s.returnAddress := ht.fetch_a_of_lt (by rw [hoperand]; decide)
  have hfault := step_call_bad (ht.status.1.trans hr) ((ht.fetch_op hpc.ge).trans hop) (ha ▸ h8)
  exact ⟨t, _, hstep, hfault, rfl, by rw [State.raiseRegisterIndexFault_fault, ht.pc, ha]⟩

/-- Settles O34: the pushes pass the CALL's bytes by for as long as the hypothesis says, and the second clause is
`self_call_faults_after_push_on_operand`. -/
theorem callToItselfRunsUntilItReachesItsOwnBytes : Obligations.CallToItselfRunsUntilItReachesItsOwnBytes := by
  refine fun s ha hr hop hreg => ⟨fun k hcells => ?runs, fun hsp h8 => ?faults⟩
  case runs =>
    have hpc : k ≤ s.pushIndex s.pc := le_pushIndex_of_cells_ne fun j hj => (hcells j hj).1
    have hoperand : k ≤ s.pushIndex (s.pc + 1) := le_pushIndex_of_cells_ne fun j hj => (hcells j hj).2
    obtain ⟨t, ht, hcalls⟩ := selfCalls_of_own_bytes_unreached hr hop ⟨ha, hreg⟩ hpc hoperand
    refine ⟨t, ht, hcalls.status.1.trans hr, hcalls.pc, hcalls.sp, (hcalls.fetch_op hpc).trans hop,
      hcalls.fetch_a_of_le hoperand, hcalls.regs, hcalls.fl, hcalls.streams, fun j hj => ?passed, fun c hc => ?others⟩
    case passed =>
      have hj' : j < 256 := (hj.trans_le hpc).trans (s.pushIndex_lt _)
      rw [hcalls.mem.cell hj hj', returnAddress_toNat]
    case others => exact hcalls.mem.of_le (le_pushIndex_of_cells_ne fun j hj => (hc j hj).symm)
  case faults =>
    have hret : BitVec.ofNat 8 (s.pc.toNat + 2) = s.returnAddress := addr_ofNat_add s.pc 2
    rw [hret]
    exact self_call_faults_after_push_on_operand hr hop ⟨ha, hreg⟩ hsp (returnAddress_toNat s ▸ h8)

/-! ### A CALL to itself whose return address calls it too -/

/-- The run of such a CALL, `k` steps on: it calls until a push has reached its opcode byte; from then on the engine skips through
memory, wherever `pc` stands. -/
inductive SelfCallRun (s : State) (k : Nat) (t : State) : Prop where
  | calling : k ≤ s.pushIndex s.pc → SelfCalls s k t → SelfCallRun s k t
  | skipping : s.pushIndex s.pc < k → StatusSame s t → RegsSame s t → t.fl = s.fl →
      FilledFrom s (s.pushIndex s.pc + 1) t → SelfCallRun s k t

theorem returnAddress_not_mem_specOpcodes {s : State} (hlt : s.returnAddress.toNat < 8) (hne : s.returnAddress ≠ 0x01) :
    s.returnAddress ∉ specOpcodes := by
  have hopcodes : ∀ op ∈ specOpcodes, op = 0x01 ∨ 8 ≤ op.toNat := by decide
  intro hmem
  exact (hopcodes _ hmem).elim hne (Nat.not_le.mpr hlt)

/-- The return address is no opcode, and no opcode stands where it has not been written. -/
theorem FilledFrom.no_opcode {s t : State} {n : Nat} (h : FilledFrom s n t) (hret : s.returnAddress ∉ specOpcodes)
    (hmem : ∀ c, s.readMem c ∈ specOpcodes → s.pushIndex c < n) (c : Addr) : t.readMem c ∉ specOpcodes := by
  rcases Nat.lt_or_ge (s.pushIndex c) n with hc | hc
  · exact h.of_lt hc ▸ hret
  · exact h.of_le hc ▸ fun hop => Nat.not_lt.mpr hc (hmem c hop)

section

variable {s t : State} {k : Nat} (hr : s.run = .running) (hop : s.fetch.op = opCall) (hself : s.NamesPc s.fetch.a)
  (hselfRet : s.NamesPc s.returnAddress)
include hr hop hself hselfRet

/-- The operand byte is the one the run began with or the return address: each names a register that holds `pc`. -/
theorem SelfCalls.run_step (h : SelfCalls s k t) (hk : k ≤ s.pushIndex s.pc) :
    ∃ u, Sys2Proof.Machine.step t = .next u ∧ SelfCallRun s (k + 1) u := by
  have hself' : s.NamesPc t.fetch.a := by
    rcases Nat.lt_or_ge (s.pushIndex (s.pc + 1)) k with hpassed | hpassed
    · exact h.fetch_a_of_lt hpassed ▸ hselfRet
    · exact h.fetch_a_of_le hpassed ▸ hself
  obtain ⟨u, hu, hcalls⟩ := h.step hr (hk.trans_lt (s.pushIndex_lt _)) ((h.fetch_op hk).trans hop) hself'
  refine ⟨u, hu, ?_⟩
  rcases Nat.lt_or_ge k (s.pushIndex s.pc) with hlt | hge
  · exact .calling hlt hcalls
  · obtain rfl := Nat.le_antisymm hk hge
    exact .skipping (Nat.lt_succ_self _) hcalls.status hcalls.regs hcalls.fl hcalls.mem

theorem SelfCallRun.step (hret : s.returnAddress ∉ specOpcodes)
    (hmem : ∀ c, s.readMem c ∈ specOpcodes → s.pushIndex c ≤ s.pushIndex s.pc) (h : SelfCallRun s k t) :
    ∃ u, Sys2Proof.Machine.step t = .next u ∧ SelfCallRun s (k + 1) u := by
  cases h with
  | calling hk hcalls => exact hcalls.run_step hr hop hself hselfRet hk
  | skipping hk hstatus hregs hfl hfilled =>
    have hnone := hfilled.no_opcode hret fun c hc => Nat.lt_succ_of_le (hmem c hc)
    exact ⟨_, step_unrecognized (hstatus.1.trans hr) (hnone t.pc),
      .skipping (Nat.lt_succ_of_lt hk) hstatus hregs hfl hfilled⟩

end

theorem SelfCallRun.frame {s t : State} {k : Nat} (h : SelfCallRun s k t) :
    StatusSame s t ∧ RegsSame s t ∧ t.fl = s.fl ∧
      ∃ n, FilledFrom s n t ∧ n ≤ s.pushIndex s.pc + 1 ∧ ∀ j < k, j ≤ s.pushIndex s.pc → j < n := by
  cases h with
  | calling hk hcalls => exact ⟨hcalls.status, hcalls.regs, hcalls.fl, k, hcalls.mem, by omega, fun _ hj _ => hj⟩
  | skipping _ hstatus hregs hfl hfilled => exact ⟨hstatus, hregs, hfl, _, hfilled, le_rfl, fun _ _ hj => by omega⟩

/-- Settles O57: `SelfCallRun` is carried on by every step, and says what the run leaves unchanged. -/
theorem callToItselfNeverEndsWhereItsReturnAddressCallsItToo :
    Obligations.CallToItselfNeverEndsWhereItsReturnAddressCallsItToo := by
  intro k s ha hv hne hr hop hreg hregRet hmem
  have hret : s.returnAddress ∉ specOpcodes := returnAddress_not_mem_specOpcodes hv hne
  obtain ⟨t, ht, hrun⟩ := Block.moves_steps (P := SelfCallRun s) (n := k) (.calling (Nat.zero_le _) (.refl s))
    fun _ _ _ h => h.step hr hop ⟨ha, hreg⟩ ⟨hv, hregRet⟩ hret hmem
  obtain ⟨hstatus, hregs, hfl, n, hfilled, hn, hpassed⟩ := hrun.frame
  refine ⟨t, ht, hstatus.1.trans hr, hstatus.2, hregs, hfl, fun j hj hj' => ?_, fun c hc => ?_⟩
  · exact hfilled.cell (hpassed j hj hj') (hj'.trans_lt (s.pushIndex_lt _))
  · exact hfilled.of_le (hn.trans hc)

end Sys2Proof.Machine
end
